-- ==== Sys2Proof/Word.lean ====
section
/-!
DEFINITION. The number and word types of the block: the values a `Num` port or register holds
(00_scope R10, 20_memory R61), and the small records passed between the stages.
-/

namespace Sys2Proof

/-- The number `rat + root·√3`: a coefficient of an exact number. -/
structure Surd where
  rat  : Rat
  root : Rat
  deriving DecidableEq, Repr, Inhabited

/-- An exact real number of `NUM_FORMAT = REAL` (00_scope R7): `known + free₀·x₀ + free₁·x₁ + …`. The `xₙ` are free
reals: `xₙ` may be any real number, and nothing is known of it but its place in the order (`Config.realOrder`). So an
operand can be any real number, and every operation of the rules keeps to such sums, since they multiply and divide by
2, 3, 6 and √3 alone. DESIGN CHOICE (log 4). -/
structure Exact where
  known : Surd
  free  : List Surd
  deriving DecidableEq, Repr, Inhabited

/-- A value of a `Num` port or register: an IEEE interchange word of the instance's format, kept bit
for bit (10_state R33, 20_memory R61), or an exact real number in `REAL`. -/
inductive PortNum where
  | b32  (w : BitVec 32)
  | b64  (w : BitVec 64)
  | real (x : Exact)
  deriving DecidableEq, Repr

/-- The modulation mode of a command (30_encoding R83). -/
inductive Mode where
  | svpwm
  | thipwm
  deriving DecidableEq, Repr

/-- The projection triple (40 R100). -/
structure Proj (α : Type) where
  ta : α
  tb : α
  tc : α
  deriving DecidableEq, Repr

/-- The sector-pair coefficients (42 R131). -/
structure Coeff (α : Type) where
  d1 : α
  d2 : α
  deriving DecidableEq, Repr

/-- The common-mode bounds (42 R133). -/
structure Bounds (α : Type) where
  v0min : α
  v0max : α
  deriving DecidableEq, Repr

/-- A duty triple, unclamped or final (42 R138, R140). -/
structure Duty (α : Type) where
  a : α
  b : α
  c : α
  deriving DecidableEq, Repr

/-- Both sector indices of one command (41 R110, R111). -/
structure Sectors where
  s6  : Fin 6
  s12 : Fin 12
  deriving DecidableEq, Repr

/-- What one modulation computes, and the number of free values used when it is done (44 R174). -/
structure Modulation (α : Type) where
  sectors : Sectors
  duty    : Duty α
  draws   : Nat
  deriving DecidableEq, Repr

/-- The same results with every number carried over by `f`. -/
def Modulation.map {α β : Type} (f : α → β) (m : Modulation α) : Modulation β :=
  { sectors := m.sectors, duty := { a := f m.duty.a, b := f m.duty.b, c := f m.duty.c }, draws := m.draws }

end Sys2Proof
end

