-- ==== Sys2Proof/Config.lean ====
section
/-!
DEFINITION. The parameters of 00_scope R6, fixed for the life of an instance, and the free values
of 41 R117 and 44 R178. The free reals of `REAL` and their order are `Config.realOrder`, in Machine/RealOrder.lean.
-/

namespace Sys2Proof

/-- `NUM_FORMAT` with `SQRT3_CONST` (00_scope R6, 40 R101): in a binary format the constant is a value of
that format, in `REAL` it is √3 itself (00_scope R7), so a constant of another format cannot be given. -/
inductive NumFormat where
  | binary32 (sqrt3 : BitVec 32)
  | binary64 (sqrt3 : BitVec 64)
  | real
  deriving DecidableEq, Repr

/-- The derived width `W` of 00_scope R6; `REAL` has none. -/
def NumFormat.width : NumFormat → Option Nat
  | .binary32 _ => some 32
  | .binary64 _ => some 64
  | .real => none

/-- Whether a value is a `Num` of the format: what a port of the instance can carry (20_memory R61). -/
def NumFormat.holds : NumFormat → PortNum → Bool
  | .binary32 _, .b32 _ => true
  | .binary64 _, .b64 _ => true
  | .real, .real _ => true
  | _, _ => false

/-- The zero (+0 in a binary format) of the format. -/
def NumFormat.zero : NumFormat → PortNum
  | .binary32 _ => .b32 0#32
  | .binary64 _ => .b64 0#64
  | .real => .real { known := { rat := 0, root := 0 }, free := [] }

/-- `CM_CROSSED_RESULT` (00_scope R6, 42 R136). -/
inductive CmCrossed where
  | v0min
  | v0max
  deriving DecidableEq, Repr

/-- `SECTOR_SCHEME` (00_scope R6, 41 R118). -/
inductive SectorScheme where
  | twelve
  | six
  deriving DecidableEq, Repr

/-- The parameters of an instance (00_scope R6). They are carried in State, unchanged by every step
(10_state R42, 70 R221). DESIGN CHOICE (log 1). -/
structure Config where
  numFormat    : NumFormat
  clampDuty    : Bool
  cmCrossed    : CmCrossed
  sectorScheme : SectorScheme
  inputCheck   : Bool
  latency      : Nat
  deriving DecidableEq, Repr

/-- The binary64 encoding of RN(√3) (00_scope R6, 40 R101). -/
def sqrt3Binary64 : BitVec 64 := 0x3FFBB67AE8584CAA#64

/-- The binary32 encoding of RN(√3) (00_scope R6, 40 R101). -/
def sqrt3Binary32 : BitVec 32 := 0x3FDDB3D7#32

/-- The defaults of 00_scope R6. `NUM_FORMAT` and `LATENCY` have none there: BINARY64 and 1 are a
DESIGN CHOICE (log 2) for `State.reset` alone; the model is written for all values. -/
def Config.default : Config :=
  { numFormat := .binary64 sqrt3Binary64, clampDuty := true, cmCrossed := .v0min,
    sectorScheme := .twelve, inputCheck := false, latency := 1 }

/-- A FREE VALUE: `draw_sector(12)`, any index of the valid range (41 R117). The argument is the number of
free values taken before it. -/
opaque Config.drawSector : Nat → Fin 12

/-- A FREE VALUE: `draw_num()` in `BINARY32`, any encoding, NaN included (44 R178). -/
opaque Config.drawNum32 : Nat → BitVec 32

/-- A FREE VALUE: `draw_num()` in `BINARY64`, any encoding, NaN included (44 R178). -/
opaque Config.drawNum64 : Nat → BitVec 64

/-- A FREE VALUE for `draw_num()` in `REAL`, where no command ever takes one: there every number is
finite (44 R174). -/
opaque Config.drawExact : Nat → Exact

end Sys2Proof
end

