-- ==== Sys2Proof/Syntax.lean ====
section
/-!
DEFINITION. The commands of SVM-CMD revision 1 (00_scope R3, 30_encoding R87), the ports by which the host
presents them and reads results (10_state R43, R44), and the host notation of 30_encoding R90, R91.
-/

namespace Sys2Proof

/-- The commands, one constructor per row of the opcode table (30_encoding R87). -/
inductive Instr where
  /-- `IDLE`: no command; `mode_i`, `ua_i`, `ub_i` are not read (44 R173). -/
  | idle
  /-- `MODULATE.SVPWM ua, ub` (44 R171). -/
  | modulateSvpwm (ua ub : PortNum)
  /-- `MODULATE.THIPWM ua, ub` (44 R172). -/
  | modulateThipwm (ua ub : PortNum)
  deriving DecidableEq, Repr

/-- The three words of the format `CMD`: the command word `cmd = {start_i, mode_i}` and the operand words
(30_encoding R80, R81). -/
structure CmdWords where
  cmd : BitVec 2
  ua  : PortNum
  ub  : PortNum
  deriving DecidableEq, Repr

/-- The output ports (10_state R44). -/
inductive OutPort where
  | ma
  | mb
  | mc
  | sector
  | ua
  | ub
  | valid
  | err
  | done
  deriving DecidableEq, Repr

/-- Every output port, in the order of 10_state R44: what the host action `READ` samples (30_encoding R90). -/
def OutPort.all : List OutPort := [.ma, .mb, .mc, .sector, .ua, .ub, .valid, .err, .done]

/-- What a port shows (10_state R44): a `Num`, the 4-bit sector code or one bit. -/
inductive PortValue where
  | num    (x : PortNum)
  | sector (code : BitVec 4)
  | bit    (b : Bool)
  deriving DecidableEq, Repr

/-- What the host does in one step: the values on the input ports `rst`, `start_i`, `mode_i`, `ua_i`, `ub_i`
(10_state R43) and the output ports it samples (44 R177). -/
structure HostStep where
  rst   : Bool
  words : CmdWords
  reads : List OutPort
  deriving DecidableEq, Repr

/-- An operand as a host program writes it (30_encoding R90). -/
inductive Literal where
  /-- The decimal number `± digits · 10^exp10`. -/
  | decimal (neg : Bool) (digits : Nat) (exp10 : Int)
  /-- A bit pattern of `nibbles` hexadecimal digits. -/
  | hex (nibbles : Nat) (bits : Nat)
  deriving DecidableEq, Repr

/-- The first operand of the pseudo-instruction `MODULATE` (30_encoding R91). -/
inductive ModeName where
  | svpwm
  | thipwm
  | zero
  | one
  deriving DecidableEq, Repr

/-- The mode a name of 30_encoding R91 stands for. -/
def ModeName.mode : ModeName → Mode
  | .svpwm => .svpwm
  | .zero => .svpwm
  | .thipwm => .thipwm
  | .one => .thipwm

/-- One line of a host program (30_encoding R90, R91). -/
inductive HostLine where
  | modulateSvpwm (ua ub : Literal)
  | modulateThipwm (ua ub : Literal)
  /-- `IDLE`, with the mode bit it presents: 0 as R90 writes it, or 1, the second spelling of R87 and R88. -/
  | idle (mode : Mode)
  | reset
  | read
  | modulate (m : ModeName) (ua ub : Literal)
  deriving DecidableEq, Repr

end Sys2Proof
end

