-- ==== Sys2Proof/WellFormed.lean ====
section
/-!
DEFINITION. What an instance can be given: configurations within 00_scope R6 and commands whose operands its
ports can carry (20_memory R61, 30_encoding R82).
-/

namespace Sys2Proof

/-- `LATENCY` is an integer of at least 1 (00_scope R6). The other parameters have no ill-formed value. -/
def Config.wf (c : Config) : Bool := decide (1 ≤ c.latency)

/-- The operands are values of the instance's `Num` (30_encoding R82). Every such value is admissible. -/
def Instr.wf (f : NumFormat) : Instr → Bool
  | .idle => true
  | .modulateSvpwm ua ub => f.holds ua && f.holds ub
  | .modulateThipwm ua ub => f.holds ua && f.holds ub

/-- Both operand words of the format `CMD` fit their ports (30_encoding R80). -/
def CmdWords.wf (f : NumFormat) (w : CmdWords) : Bool := f.holds w.ua && f.holds w.ub

/-- What the host can put on the ports of an instance of format `f` (10_state R43). -/
def HostStep.wf (f : NumFormat) (h : HostStep) : Bool := h.words.wf f

end Sys2Proof
end

