-- ==== Sys2Proof/Decode.lean ====
section
/-!
DEFINITION. Decoding and encoding of the format `CMD` (30_encoding R80, R81, R83, R87): from the port words,
from a frame of `2 + 2·W` bits, and from the opcode table's numbering of the bits.
-/

namespace Sys2Proof

/-- Why a frame is no command. Every value of `cmd` is one (30_encoding R88), so only the frame's shape can be wrong. -/
inductive DecodeError where
  /-- The frame has not the `2 + 2·W` bits of its format (30_encoding R80). Safe. -/
  | frameLength
  /-- `NUM_FORMAT = REAL`: ports have no bit layout and there is no frame (20_memory R61). Safe. -/
  | noBitLayout
  deriving DecidableEq, Repr

/-- The field `start` of a command word: `cmd[1]` (30_encoding R81). -/
def cmdStart (cmd : BitVec 2) : Bool := cmd.getLsbD 1

/-- The field `mode` of a command word: `cmd[0]`, 0 for SpaceVectorPWM and 1 for ThirdHarmonicInjectionPWM
(30_encoding R81, R83). -/
def cmdMode (cmd : BitVec 2) : Mode := if cmd.getLsbD 0 then .thipwm else .svpwm

/-- The command word `{start, mode}` (30_encoding R81, R83). -/
def cmdOf (start : Bool) (mode : Mode) : BitVec 2 :=
  BitVec.ofBool start ++ BitVec.ofBool (match mode with | .svpwm => false | .thipwm => true)

/-- The command of a mode (30_encoding R87, R91). -/
def modulateInstr (mode : Mode) (ua ub : PortNum) : Instr :=
  match mode with
  | .svpwm => .modulateSvpwm ua ub
  | .thipwm => .modulateThipwm ua ub

/-- The opcode map (30_encoding R87): the command from `cmd[1]` and, if that is 1, the mode from `cmd[0]`. Total:
there is no illegal or reserved command word (30_encoding R88). -/
def decodeWords (w : CmdWords) : Instr :=
  if cmdStart w.cmd then modulateInstr (cmdMode w.cmd) w.ua w.ub else .idle

/-- The `Num` a W-bit pattern encodes (20_memory R61), from the low W bits of a number. `REAL` has no patterns:
its zero stands for all of them (log 15). -/
def numOfBits (f : NumFormat) (n : Nat) : PortNum :=
  match f with
  | .binary32 _ => .b32 (BitVec.ofNat 32 n)
  | .binary64 _ => .b64 (BitVec.ofNat 64 n)
  | .real => f.zero

/-- The bit pattern of a `Num`; an exact number has none. -/
def bitsOfNum : PortNum → Option Nat
  | .b32 w => some w.toNat
  | .b64 w => some w.toNat
  | .real _ => none

/-- The words of a command. `IDLE` is written as `cmd = 0b00` with zero operand words, which nothing reads
(30_encoding R90, 44 R173). -/
def encodeWords (f : NumFormat) : Instr → CmdWords
  | .idle => { cmd := cmdOf false .svpwm, ua := f.zero, ub := f.zero }
  | .modulateSvpwm ua ub => { cmd := cmdOf true .svpwm, ua := ua, ub := ub }
  | .modulateThipwm ua ub => { cmd := cmdOf true .thipwm, ua := ua, ub := ub }

/-- The words in the frame `{cmd[1:0], ua[W-1:0], ub[W-1:0]}`, most significant first (30_encoding R81). -/
def frameWords (f : NumFormat) (width : Nat) (frame : Nat) : CmdWords :=
  { cmd := BitVec.ofNat 2 (frame / 2 ^ (2 * width)),
    ua := numOfBits f (frame / 2 ^ width), ub := numOfBits f frame }

/-- The command in a frame of `len` bits whose value is `frame` (30_encoding R80, R81). -/
def decodeFrame (f : NumFormat) (len frame : Nat) : Except DecodeError Instr :=
  match f.width with
  | none => .error .noBitLayout
  | some width =>
    if len = 2 + 2 * width ∧ frame < 2 ^ len then .ok (decodeWords (frameWords f width frame))
    else .error .frameLength

/-- The frame of a command in a binary format (30_encoding R81). -/
def encodeFrame (f : NumFormat) (i : Instr) : Option Nat :=
  let w := encodeWords f i
  match f.width, bitsOfNum w.ua, bitsOfNum w.ub with
  | some width, some a, some b => some ((w.cmd.toNat * 2 ^ width + a) * 2 ^ width + b)
  | _, _, _ => none

/-- The words of a command whose bits are numbered from the command word upward: `cmd` is bits 1:0, the bits of
`ua` count on from it and those of `ub` from there. DESIGN CHOICE (log 15): the block's words stand on ports of
their own and have no order among them (20_memory R62). -/
def tableWords (f : NumFormat) (n : Nat) : CmdWords :=
  { cmd := BitVec.ofNat 2 n, ua := numOfBits f (n / 4),
    ub := numOfBits f (n / 4 / 2 ^ f.width.getD 0) }

/-- The instruction the decoder reads from `nbits` bits of value `w` in the opcode table's numbering, all bits
above them 0, for an instance of the default configuration. -/
def decodeTableWord (nbits w : Nat) : Option Instr :=
  some (decodeWords (tableWords Config.default.numFormat (w % 2 ^ nbits)))

end Sys2Proof
end

