-- ==== Sys2Proof/Machine/State.lean ====
section
/-!
DEFINITION. The state of the block (10_state R31, R33 to R45, 70 R224), the reasons a step can stop (60 R206),
and the state after reset (10_state R47, 70 R221).
-/

namespace Sys2Proof.Machine

/-- A command accepted and not yet completed (70 R224, R226); there is one only when `LATENCY > 1`. -/
structure InFlight where
  mode : Mode
  ua   : PortNum
  ub   : PortNum
  /-- The steps still to come, the completing one included. -/
  left : Nat
  deriving DecidableEq, Repr

/-- The state of one instance: its configuration, which no step changes (log 1); the eight registers of 10_state
R31; the completion strobe, as the last step showed it; the command in flight; and the model's own `draws` (free values
taken) and `host` (what the host does in the coming steps). DESIGN CHOICE (log 1, 5, 6, 7). -/
structure State where
  cfg         : Config
  lastUa      : PortNum
  lastUb      : PortNum
  lastSector  : BitVec 4
  lastMa      : PortNum
  lastMb      : PortNum
  lastMc      : PortNum
  resultValid : Bool
  lastErr     : Bool
  doneO       : Bool
  inFlight    : Option InFlight
  draws       : Nat
  host        : List HostStep
  deriving DecidableEq, Repr

/-- The model faults, exactly those of 60 R206; each ends the run (60 R205). -/
inductive Fault where
  /-- Raised by sampling `ma_o`, `mb_o`, `mc_o`, `sector_o`, `ua_o` or `ub_o` while `RESULT_VALID = 0` (60 R206). Safe. -/
  | readUnwritten
  /-- Raised by `start_i = 1` while a command is in flight (60 R206, 70 R224). Safe. -/
  | startWhileBusy
  /-- Raised by a change of `mode_i`, `ua_i` or `ub_i` while a command is in flight (60 R206, 70 R226). Safe. -/
  | operandsChanged
  deriving DecidableEq, Repr

/-- Why the model gives no meaning. -/
inductive Refusal where
  /-- An instruction without a meaning, refused by `exec`'s arm of that name; none is left. Safe. -/
  | notModelled (mnemonic : String)
  /-- Raised by a `MODULATE` command, or by accepting one, when an operand is no `Num` of the instance's format:
  a port of the instance cannot carry it (20_memory R61). DEDUCED (log 14). Safe. -/
  | operandFormat
  deriving DecidableEq, Repr

/-- An instance of configuration `c` right after reset, with the host's coming steps (10_state R47, 70 R221). The six
result registers hold the zero of the format, which the spec does not give and no port shows. DESIGN CHOICE (log 3). -/
def State.resetOf (c : Config) (host : List HostStep) : State :=
  { cfg := c
    lastUa := c.numFormat.zero, lastUb := c.numFormat.zero
    lastSector := 0#4
    lastMa := c.numFormat.zero, lastMb := c.numFormat.zero, lastMc := c.numFormat.zero
    resultValid := false, lastErr := false
    doneO := false, inFlight := none, draws := 0, host := host }

/-- The machine right after reset: the default configuration (00_scope R6, log 2), no command presented. -/
def State.reset : State := State.resetOf Config.default []

end Sys2Proof.Machine
end

