-- ==== Sys2Proof/Machine/Flags.lean ====
section
/-!
DEFINITION. The status bits `RESULT_VALID` and `LAST_ERR` and the strobe `done_o` (10_state R39, R40, R45). There are
no other flags (R41).
-/

namespace Sys2Proof.Machine

/-- `RESULT_VALID <- 1` (10_state R39). -/
def State.setValid (s : State) : State := { s with resultValid := true }

/-- A write of `LAST_ERR`, which is hardwired when `INPUT_CHECK = 0` and then keeps its storage (10_state R40).
DEDUCED (log 17). -/
def State.writeErr (s : State) (b : Bool) : State := { s with lastErr := if s.cfg.inputCheck then b else s.lastErr }

/-- What `LAST_ERR` reads as: 0 when it is hardwired (10_state R40). -/
def State.err (s : State) : Bool := s.cfg.inputCheck && s.lastErr

/-- What `done_o` shows in this step (10_state R45). -/
def State.setDone (s : State) (b : Bool) : State := { s with doneO := b }

end Sys2Proof.Machine
end

