-- ==== Sys2Proof/Machine/Arith.lean ====
section
/-!
DEFINITION. What the rules ask of the number type `Num` (00_scope R10, R11, R13): its rounded operations, its
comparison and its literals, as one record, so that each stage is written once for every `NUM_FORMAT`.
-/

namespace Sys2Proof.Machine

/-- The operations of one number format that the rules use (00_scope R10): ⊕ and ⊖; the multiplications
`SQRT3_CONST ⊗ a` and `2 ⊗ a` and the divisions `a ⊘ 2`, `a ⊘ 3` and `a ⊘ 6`, the only ones there are; exact negation;
the ordered comparison (R11); `isFinite` (R13); the literals 0, 0.5 and 1; and `draw_num()` by the number of free values
taken before. -/
structure Arith (α : Type) where
  add    : α → α → α
  sub    : α → α → α
  neg    : α → α
  mulSqrt3 : α → α
  mulTwo   : α → α
  divTwo   : α → α
  divThree : α → α
  divSix   : α → α
  lt     : α → α → Bool
  finite : α → Bool
  zero   : α
  half   : α
  one    : α
  draw   : Nat → α

/-- `clamp_lo_first(v, lo, hi)` (00_scope R13). -/
def clampLoFirst {α : Type} (A : Arith α) (v lo hi : α) : α :=
  if A.lt v lo then lo else if A.lt hi v then hi else v

/-- `clamp_hi_first(v, lo, hi)` (00_scope R13). -/
def clampHiFirst {α : Type} (A : Arith α) (v lo hi : α) : α :=
  if A.lt hi v then hi else if A.lt v lo then lo else v

end Sys2Proof.Machine
end

