-- ==== Sys2Proof/Machine/Project.lean ====
section
/-!
DEFINITION. The voltage projector (40_voltage_projector).
-/

namespace Sys2Proof.Machine

/-- PROJECT in the evaluation order of 40 R103; in `REAL` it is R100. The constant is `SQRT3_CONST` (R101). -/
def project {α : Type} (A : Arith α) (ua ub : α) : Proj α :=
  let s := A.mulSqrt3 ua
  { ta := ub, tb := A.divTwo (A.sub (A.neg s) ub), tc := A.divTwo (A.sub s ub) }

/-- Whether all three projections are finite (41 R117, 44 R174). -/
def projFinite {α : Type} (A : Arith α) (t : Proj α) : Bool :=
  A.finite t.ta && A.finite t.tb && A.finite t.tc

end Sys2Proof.Machine
end

