-- ==== Sys2Proof/Machine/Classify.lean ====
section
/-!
DEFINITION. The sector classifier (41_sector_classifier).
-/

namespace Sys2Proof.Machine

/-- The decision tree of 41 R113, for finite projections. -/
def classifyTree {α : Type} (A : Arith α) (t : Proj α) : Sectors :=
  if A.lt A.zero t.ta then
    if A.lt A.zero t.tc then { s6 := 0, s12 := if A.lt t.ta t.tc then 0 else 1 }
    else if A.lt t.tb A.zero then { s6 := 1, s12 := if A.lt t.tb t.tc then 2 else 3 }
    else { s6 := 2, s12 := if A.lt t.tb t.ta then 4 else 5 }
  else
    if A.lt t.tc A.zero then { s6 := 3, s12 := if A.lt t.tc t.ta then 6 else 7 }
    else if A.lt A.zero t.tb then { s6 := 4, s12 := if A.lt t.tc t.tb then 8 else 9 }
    else { s6 := 5, s12 := if A.lt t.ta t.tb then 10 else 11 }

/-- The sector pair `s12 div 2` (41 R115), which is also the 6-sector index (41 R114, R117). -/
def pairOf (s12 : Fin 12) : Fin 6 := ⟨s12.val / 2, by omega⟩

/-- `draw_sector(12)`, and the 6-sector index it gives (41 R117). -/
def drawSectors (draws : Nat) : Sectors :=
  { s6 := pairOf (Config.drawSector draws), s12 := Config.drawSector draws }

/-- Both indices, and the free values taken: a draw when a projection is not finite (41 R117). -/
def classify {α : Type} (A : Arith α) (t : Proj α) (draws : Nat) : Sectors × Nat :=
  if projFinite A t then (classifyTree A t, draws) else (drawSectors draws, draws + 1)

/-- The index reported in `LAST_SECTOR` (41 R118), as its 4-bit code (30_encoding R84, R85). -/
def sectorCode (scheme : SectorScheme) (s : Sectors) : BitVec 4 :=
  match scheme with
  | .twelve => BitVec.ofNat 4 s.s12.val
  | .six => BitVec.ofNat 4 s.s6.val

end Sys2Proof.Machine
end

