-- ==== Sys2Proof/Machine/Synthesize.lean ====
section
/-!
DEFINITION. The PWM duty synthesizer (42_pwm_duty_synthesizer) with its SpaceVectorPWM common mode.
-/

namespace Sys2Proof.Machine

/-- PAIR_COEFF (42 R131). -/
def pairCoeff {α : Type} (A : Arith α) (p : Fin 6) (t : Proj α) : Coeff α :=
  match p with
  | 0 => { d1 := t.tc, d2 := t.ta }
  | 1 => { d1 := A.neg t.tc, d2 := A.neg t.tb }
  | 2 => { d1 := t.ta, d2 := t.tb }
  | 3 => { d1 := A.neg t.ta, d2 := A.neg t.tc }
  | 4 => { d1 := t.tb, d2 := t.tc }
  | 5 => { d1 := A.neg t.tb, d2 := A.neg t.ta }

/-- CM_BOUNDS in the evaluation order of 42 R134; in `REAL` it is R133. -/
def cmBounds {α : Type} (A : Arith α) (d : Coeff α) : Bounds α :=
  { v0min := A.add (A.add (A.neg A.half) (A.divThree d.d1)) (A.divThree (A.mulTwo d.d2))
    v0max := A.sub (A.sub A.half (A.divThree (A.mulTwo d.d1))) (A.divThree d.d2) }

/-- The SpaceVectorPWM common mode before its clamp (42 R135). -/
def svpwmRaw {α : Type} (A : Arith α) (d : Coeff α) : α := A.divSix (A.sub d.d2 d.d1)

/-- CM_SVPWM: the clamp into the bounds, whose form decides crossed bounds (42 R136). -/
def cmSvpwm {α : Type} (A : Arith α) (crossed : CmCrossed) (d : Coeff α) (b : Bounds α) : α :=
  match crossed with
  | .v0min => clampLoFirst A (svpwmRaw A d) b.v0min b.v0max
  | .v0max => clampHiFirst A (svpwmRaw A d) b.v0min b.v0max

/-- The three values of DUTY_ASSIGN in the evaluation order of 42 R139, least first: `base`, `second`, `third`. -/
def dutyLadder {α : Type} (A : Arith α) (d : Coeff α) (vcm : α) : α × α × α :=
  let base := A.sub (A.sub (A.add A.half vcm) (A.divThree d.d1)) (A.divThree (A.mulTwo d.d2))
  let second := A.add base d.d2
  (base, second, A.add second d.d1)

/-- DUTY_ASSIGN: which phase gets which value, by the pair (42 R138). -/
def dutyAssign {α : Type} (A : Arith α) (p : Fin 6) (d : Coeff α) (vcm : α) : Duty α :=
  let v := dutyLadder A d vcm
  match p with
  | 0 => { a := v.2.2, b := v.2.1, c := v.1 }
  | 1 => { a := v.2.1, b := v.2.2, c := v.1 }
  | 2 => { a := v.1, b := v.2.2, c := v.2.1 }
  | 3 => { a := v.1, b := v.2.1, c := v.2.2 }
  | 4 => { a := v.2.1, b := v.1, c := v.2.2 }
  | 5 => { a := v.2.2, b := v.1, c := v.2.1 }

/-- DUTY_CLAMP of one phase (42 R140). -/
def clampUnit {α : Type} (A : Arith α) (u : α) : α := clampLoFirst A u A.zero A.one

/-- The final duties: clamped each by itself when `CLAMP_DUTY = 1`, else as they are (42 R140, R141). -/
def finalDuty {α : Type} (A : Arith α) (clamp : Bool) (u : Duty α) : Duty α :=
  if clamp then { a := clampUnit A u.a, b := clampUnit A u.b, c := clampUnit A u.c } else u

end Sys2Proof.Machine
end

