-- ==== Sys2Proof/Machine/ThirdHarmonic.lean ====
section
/-!
DEFINITION. The third-harmonic injector (43_third_harmonic_injector).
-/

namespace Sys2Proof.Machine

/-- The index `k = (s12 + 1) div 2` of 43 R160. -/
def thiIndex (s12 : Fin 12) : Nat := (s12.val + 1) / 2

/-- CM_THI: the bound chosen by the parity of `k`, never clamped (43 R160, R165). -/
def cmThi {α : Type} (s12 : Fin 12) (b : Bounds α) : α :=
  if thiIndex s12 % 2 = 0 then b.v0min else b.v0max

end Sys2Proof.Machine
end

