-- ==== Sys2Proof/Machine/Modulate.lean ====
section
/-!
DEFINITION. The computation of one `MODULATE` command (44 R174), for any number format, without its register writes.
-/

namespace Sys2Proof.Machine

/-- The common-mode value of the command's mode (44 R174). -/
def commonMode {α : Type} (A : Arith α) (crossed : CmCrossed) (mode : Mode) (s12 : Fin 12) (d : Coeff α)
    (b : Bounds α) : α :=
  match mode with
  | .svpwm => cmSvpwm A crossed d b
  | .thipwm => cmThi s12 b

/-- Whether every value the last test of 44 R174 names is finite. -/
def allFinite {α : Type} (A : Arith α) (t : Proj α) (b : Bounds α) (vcm : α) (u : Duty α) : Bool :=
  projFinite A t && A.finite b.v0min && A.finite b.v0max && A.finite vcm &&
    A.finite u.a && A.finite u.b && A.finite u.c

/-- The three draws of 44 R178. -/
def drawDuty {α : Type} (A : Arith α) (draws : Nat) : Duty α :=
  { a := A.draw draws, b := A.draw (draws + 1), c := A.draw (draws + 2) }

/-- The body of 44 R174 between the input test and the register writes; `draws` free values are already taken. A value
that is not finite makes the sector a draw and the duties draws, wherever it first arises: a finite command that
overflows is treated as a non-finite one (44 R178, 90_conflicts C6, 92 D26). -/
def modulation {α : Type} (A : Arith α) (c : Config) (mode : Mode) (draws : Nat) (ua ub : α) : Modulation α :=
  let t := project A ua ub
  let k := classify A t draws
  let p := pairOf k.1.s12
  let d := pairCoeff A p t
  let b := cmBounds A d
  let vcm := commonMode A c.cmCrossed mode k.1.s12 d b
  let u := dutyAssign A p d vcm
  if allFinite A t b vcm u then { sectors := k.1, duty := finalDuty A c.clampDuty u, draws := k.2 }
  else { sectors := drawSectors draws, duty := drawDuty A (draws + 1), draws := draws + 4 }

end Sys2Proof.Machine
end

