-- ==== Sys2Proof/Machine/Ieee.lean ====
section
/-!
DEFINITION. The binary formats of `Num`: the IEEE 754 interchange layout (20_memory R61), `RN` and the rounded
operations with their special values (00_scope R10), and the ordered comparison (R11). An operation takes the exact
values of its operands, computes exactly, and rounds once. PRESUMED where R10 only names the IEEE rules (log 13).
-/

namespace Sys2Proof.Machine

/-- A row of the layout table of 20_memory R61: field widths and exponent bias. -/
structure IeeeLayout where
  expBits  : Nat
  fracBits : Nat
  bias     : Nat
  deriving DecidableEq, Repr

/-- `BINARY32` (20_memory R61). -/
def binary32Layout : IeeeLayout := { expBits := 8, fracBits := 23, bias := 127 }

/-- `BINARY64` (20_memory R61). -/
def binary64Layout : IeeeLayout := { expBits := 11, fracBits := 52, bias := 1023 }

/-- What a bit pattern stands for (20_memory R61): a sign is `true` for minus, and a finite value has its sign
and its magnitude, so that +0 and −0 differ. -/
inductive IeeeValue where
  | nan
  | inf (neg : Bool)
  | finite (neg : Bool) (mag : Rat)
  deriving DecidableEq, Repr

/-- The exact value of a finite IEEE value; +0 and −0 have the same. -/
def signedRat (neg : Bool) (mag : Rat) : Rat := if neg then -mag else mag

/-- The number `m · 2^e`. -/
def scaledRat (m : Nat) : Int → Rat
  | .ofNat k => mkRat (m * 2 ^ k : Nat) 1
  | .negSucc k => mkRat m (2 ^ (k + 1))

/-- The exponent of the least quantum of a format: that of the subnormals. -/
def minQuantum (L : IeeeLayout) : Int := 1 - L.bias - L.fracBits

/-- The biased exponent field of a pattern. -/
def expField (L : IeeeLayout) {w : Nat} (x : BitVec w) : Nat := x.toNat / 2 ^ L.fracBits % 2 ^ L.expBits

/-- The trailing significand field of a pattern. -/
def fracField (L : IeeeLayout) {w : Nat} (x : BitVec w) : Nat := x.toNat % 2 ^ L.fracBits

/-- The sign bit of a pattern. -/
def signField (L : IeeeLayout) {w : Nat} (x : BitVec w) : Bool :=
  x.toNat / 2 ^ (L.expBits + L.fracBits) % 2 == 1

/-- The magnitude of a finite pattern: subnormal when the exponent field is 0 (20_memory R61). -/
def fieldMagnitude (L : IeeeLayout) (e frac : Nat) : Rat :=
  if e = 0 then scaledRat frac (minQuantum L)
  else scaledRat (2 ^ L.fracBits + frac) (minQuantum L + (e - 1 : Nat))

/-- The value of a pattern (20_memory R61). -/
def ieeeValue (L : IeeeLayout) {w : Nat} (x : BitVec w) : IeeeValue :=
  if expField L x = 2 ^ L.expBits - 1 then
    if fracField L x = 0 then .inf (signField L x) else .nan
  else .finite (signField L x) (fieldMagnitude L (expField L x) (fracField L x))

/-- A pattern from its sign and the number its exponent and significand fields form. -/
def ieeePack (L : IeeeLayout) (w : Nat) (neg : Bool) (fields : Nat) : BitVec w :=
  BitVec.ofNat w ((if neg then 2 ^ (L.expBits + L.fracBits) else 0) + fields)

/-- The fields of an infinity: exponent all ones, significand 0 (20_memory R61). -/
def infFields (L : IeeeLayout) : Nat := (2 ^ L.expBits - 1) * 2 ^ L.fracBits

/-- ±∞. -/
def ieeeInf (L : IeeeLayout) (w : Nat) (neg : Bool) : BitVec w := ieeePack L w neg (infFields L)

/-- The NaN every invalid operation gives. PRESUMED (log 12): the spec names none, and none is ever seen. -/
def ieeeNan (L : IeeeLayout) (w : Nat) : BitVec w :=
  ieeePack L w false (infFields L + 2 ^ (L.fracBits - 1))

/-- Whether `2^l ≤ n/d`, for a positive `d`. -/
def powLe (n d : Nat) : Int → Bool
  | .ofNat k => decide (d * 2 ^ k ≤ n)
  | .negSucc k => decide (d ≤ n * 2 ^ (k + 1))

/-- The greatest integer `l` with `2^l ≤ n/d`, for positive `n` and `d`. -/
def floorLog2 (n d : Nat) : Int :=
  let l : Int := (Nat.log2 n : Int) - Nat.log2 d
  if powLe n d l then l else l - 1

/-- The integer nearest to `n/d`, the even one of two equally near (00_scope R10). -/
def roundHalfEven (n d : Nat) : Nat :=
  let m := n / d
  let r := n % d
  if d < 2 * r ∨ (2 * r = d ∧ m % 2 = 1) then m + 1 else m

/-- The integer nearest to `(n/d) / 2^k`, ties to even. -/
def roundScaled (n d : Nat) : Int → Nat
  | .ofNat k => roundHalfEven n (d * 2 ^ k)
  | .negSucc k => roundHalfEven (n * 2 ^ (k + 1)) d

/-- The exponent of the quantum a positive `n/d` is rounded to: that of its own binade, no less than the
subnormals' (gradual underflow, 00_scope R10). -/
def quantumExp (L : IeeeLayout) (n d : Nat) : Int := max (floorLog2 n d - L.fracBits) (minQuantum L)

/-- The fields of `RN(n/d)` for a positive `n/d`: the rounded significand carries into the exponent field by
itself, and what reaches the infinity's fields is the infinity (00_scope R10). -/
def roundFields (L : IeeeLayout) (n d : Nat) : Nat :=
  let k := quantumExp L n d
  min ((k - minQuantum L).toNat * 2 ^ L.fracBits + roundScaled n d k) (infFields L)

/-- `RN(q)` (00_scope R10); `zeroNeg` is the sign of the result when `q` is 0. -/
def ieeeRound (L : IeeeLayout) (w : Nat) (zeroNeg : Bool) (q : Rat) : BitVec w :=
  if q.num = 0 then ieeePack L w zeroNeg 0
  else ieeePack L w (decide (q.num < 0)) (roundFields L q.num.natAbs q.den)

/-- `−a`: flips the sign bit (00_scope R10). -/
def ieeeNeg (L : IeeeLayout) {w : Nat} (x : BitVec w) : BitVec w :=
  x ^^^ BitVec.ofNat w (2 ^ (L.expBits + L.fracBits))

/-- `a ⊕ b` (00_scope R10). An exact zero sum is −0 only of two negative operands. -/
def ieeeAdd (L : IeeeLayout) {w : Nat} (x y : BitVec w) : BitVec w :=
  match ieeeValue L x, ieeeValue L y with
  | .nan, _ => ieeeNan L w
  | _, .nan => ieeeNan L w
  | .inf s, .inf t => if s = t then ieeeInf L w s else ieeeNan L w
  | .inf s, .finite _ _ => ieeeInf L w s
  | .finite _ _, .inf t => ieeeInf L w t
  | .finite s m, .finite t n => ieeeRound L w (s && t) (signedRat s m + signedRat t n)

/-- `a ⊖ b` (00_scope R10): the sum with the negated operand. -/
def ieeeSub (L : IeeeLayout) {w : Nat} (x y : BitVec w) : BitVec w := ieeeAdd L x (ieeeNeg L y)

/-- `a ⊗ b` (00_scope R10). -/
def ieeeMul (L : IeeeLayout) {w : Nat} (x y : BitVec w) : BitVec w :=
  match ieeeValue L x, ieeeValue L y with
  | .nan, _ => ieeeNan L w
  | _, .nan => ieeeNan L w
  | .inf s, .inf t => ieeeInf L w (s != t)
  | .inf s, .finite t n => if n = 0 then ieeeNan L w else ieeeInf L w (s != t)
  | .finite s m, .inf t => if m = 0 then ieeeNan L w else ieeeInf L w (s != t)
  | .finite s m, .finite t n => ieeeRound L w (s != t) (signedRat s m * signedRat t n)

/-- `a ⊘ b` (00_scope R10). -/
def ieeeDiv (L : IeeeLayout) {w : Nat} (x y : BitVec w) : BitVec w :=
  match ieeeValue L x, ieeeValue L y with
  | .nan, _ => ieeeNan L w
  | _, .nan => ieeeNan L w
  | .inf _, .inf _ => ieeeNan L w
  | .inf s, .finite t _ => ieeeInf L w (s != t)
  | .finite s _, .inf t => ieeePack L w (s != t) 0
  | .finite s m, .finite t n =>
    if n = 0 then (if m = 0 then ieeeNan L w else ieeeInf L w (s != t))
    else ieeeRound L w (s != t) (signedRat s m / signedRat t n)

/-- `a < b`, the ordered comparison: false of a NaN, and −0 equals +0 (00_scope R11). -/
def ieeeLt (L : IeeeLayout) {w : Nat} (x y : BitVec w) : Bool :=
  match ieeeValue L x, ieeeValue L y with
  | .nan, _ => false
  | _, .nan => false
  | .inf s, .inf t => s && !t
  | .inf s, .finite _ _ => s
  | .finite _ _, .inf t => !t
  | .finite s m, .finite t n => decide (signedRat s m < signedRat t n)

/-- `isFinite(v)` (00_scope R13). -/
def ieeeFinite (L : IeeeLayout) {w : Nat} (x : BitVec w) : Bool := decide (expField L x ≠ 2 ^ L.expBits - 1)

/-- The arithmetic of a binary format with its `SQRT3_CONST`; the literals are exact (00_scope R10). -/
def ieeeArith (L : IeeeLayout) (w : Nat) (sqrt3 : BitVec w) (draw : Nat → BitVec w) : Arith (BitVec w) :=
  { add := ieeeAdd L, sub := ieeeSub L, neg := ieeeNeg L, lt := ieeeLt L, finite := ieeeFinite L
    mulSqrt3 := ieeeMul L sqrt3, mulTwo := ieeeMul L (ieeeRound L w false 2)
    divTwo := fun a => ieeeDiv L a (ieeeRound L w false 2)
    divThree := fun a => ieeeDiv L a (ieeeRound L w false 3)
    divSix := fun a => ieeeDiv L a (ieeeRound L w false 6)
    zero := ieeeRound L w false 0, half := ieeeRound L w false (mkRat 1 2), one := ieeeRound L w false 1, draw := draw }

/-- `NUM_FORMAT = BINARY32`. -/
def arith32 (sqrt3 : BitVec 32) : Arith (BitVec 32) := ieeeArith binary32Layout 32 sqrt3 Config.drawNum32

/-- `NUM_FORMAT = BINARY64`. -/
def arith64 (sqrt3 : BitVec 64) : Arith (BitVec 64) := ieeeArith binary64Layout 64 sqrt3 Config.drawNum64

end Sys2Proof.Machine
end

