-- ==== Sys2Proof/Machine/ExactNum.lean ====
section
/-!
DEFINITION. The operations on the exact numbers of `NUM_FORMAT = REAL` (00_scope R7), term by term (log 4).
-/

namespace Sys2Proof.Machine

/-! ## Coefficients `a + b·√3` -/

/-- A rational coefficient. -/
def surdOfRat (q : Rat) : Surd := { rat := q, root := 0 }

/-- The coefficient √3. -/
def surdSqrt3 : Surd := { rat := 0, root := 1 }

/-- Addition. -/
def surdAdd (x y : Surd) : Surd := { rat := x.rat + y.rat, root := x.root + y.root }

/-- Multiplication, by `√3·√3 = 3`. -/
def surdMul (x y : Surd) : Surd :=
  { rat := x.rat * y.rat + 3 * (x.root * y.root), root := x.rat * y.root + x.root * y.rat }

/-- Whether `a + b·√3` is positive, by comparing `a²` with `3·b²` where the signs differ. -/
def surdPos (x : Surd) : Bool :=
  if 0 ≤ x.rat then
    if 0 ≤ x.root then decide (0 < x.rat ∨ 0 < x.root)
    else decide (3 * (x.root * x.root) < x.rat * x.rat)
  else decide (0 < x.root ∧ x.rat * x.rat < 3 * (x.root * x.root))

/-! ## The terms with free reals -/

/-- A term list with one more coefficient in front; no list ends in a coefficient 0. -/
def consTerm (c : Surd) (cs : List Surd) : List Surd := if c = surdOfRat 0 ∧ cs = [] then [] else c :: cs

/-- The sum, coefficient by coefficient. -/
def addTerms : List Surd → List Surd → List Surd
  | [], ys => ys
  | x :: xs, [] => x :: xs
  | x :: xs, y :: ys => consTerm (surdAdd x y) (addTerms xs ys)

/-- Every coefficient multiplied by `c`. -/
def scaleTerms (c : Surd) : List Surd → List Surd
  | [] => []
  | x :: xs => consTerm (surdMul c x) (scaleTerms c xs)

/-! ## Exact numbers -/

/-- A rational number as an exact number. -/
def exactOfRat (q : Rat) : Exact := { known := surdOfRat q, free := [] }

/-- The free real `xₙ`. -/
def exactFree (n : Nat) : Exact :=
  { known := surdOfRat 0, free := List.replicate n (surdOfRat 0) ++ [surdOfRat 1] }

/-- Addition. -/
def exactAdd (x y : Exact) : Exact := { known := surdAdd x.known y.known, free := addTerms x.free y.free }

/-- Multiplication by a coefficient. -/
def exactScale (c : Surd) (x : Exact) : Exact := { known := surdMul c x.known, free := scaleTerms c x.free }

/-- Negation. -/
def exactNeg (x : Exact) : Exact := exactScale (surdOfRat (-1)) x

/-- Subtraction. -/
def exactSub (x y : Exact) : Exact := exactAdd x (exactNeg y)

end Sys2Proof.Machine
end

