-- ==== Sys2Proof/Machine/RealOrder.lean ====
section
/-!
DEFINITION. The order of the exact numbers, and `NUM_FORMAT = REAL` (00_scope R7, R10, R11). The sign of a number without
free reals is computed. That of any other is a free value: all that is known of it is that it comes from real numbers
(log 4).
-/

namespace Sys2Proof.Machine

/-! ## The real numbers that exact numbers stand for -/

/-- The real number a coefficient stands for. -/
noncomputable def surdValue (x : Surd) : ℝ := (x.rat : ℝ) + (x.root : ℝ) * Real.sqrt 3

/-- The sum of the terms from `xₙ` on, when `xₖ` is the real number `v k`. -/
noncomputable def termsValue (v : Nat → ℝ) : List Surd → Nat → ℝ
  | [], _ => 0
  | c :: cs, n => surdValue c * v n + termsValue v cs (n + 1)

/-- The real number an exact number stands for, when `xₖ` is the real number `v k`. -/
noncomputable def exactValue (v : Nat → ℝ) (x : Exact) : ℝ := surdValue x.known + termsValue v x.free 0

/-! ## The order -/

/-- The sign test of the coefficients is that of the reals. -/
theorem surdPos_iff (x : Surd) : surdPos x = true ↔ 0 < surdValue x := by
  obtain ⟨a, b⟩ := x
  have hs : Real.sqrt 3 * Real.sqrt 3 = 3 := Real.mul_self_sqrt (by norm_num)
  have hp : 0 < Real.sqrt 3 := Real.sqrt_pos.mpr (by norm_num)
  have key : ((3 * (b * b) : Rat) : ℝ) = (b * Real.sqrt 3) * (b * Real.sqrt 3) := by
    push_cast; linear_combination (-(b : ℝ) * b) * hs
  simp only [surdPos, surdValue]
  split
  · rename_i ha
    have ha' : (0 : ℝ) ≤ a := by exact_mod_cast ha
    split
    · rename_i hb
      have hb' : (0 : ℝ) ≤ b := by exact_mod_cast hb
      simp only [decide_eq_true_eq]
      constructor
      · rintro (h | h)
        · have : (0 : ℝ) < a := by exact_mod_cast h
          positivity
        · have : (0 : ℝ) < b := by exact_mod_cast h
          positivity
      · intro h
        by_contra hc
        push Not at hc
        have h1 : (a : ℝ) ≤ 0 := by exact_mod_cast hc.1
        have h2 : (b : ℝ) ≤ 0 := by exact_mod_cast hc.2
        nlinarith
    · rename_i hb
      have hb' : (b : ℝ) < 0 := by exact_mod_cast (not_le.mp hb)
      have hb2 : (b : ℝ) * Real.sqrt 3 < 0 := mul_neg_of_neg_of_pos hb' hp
      rw [decide_eq_true_eq, ← Rat.cast_lt (K := ℝ), key, Rat.cast_mul]
      constructor
      · intro h
        nlinarith
      · intro h
        nlinarith
  · rename_i ha
    have ha' : (a : ℝ) < 0 := by exact_mod_cast (not_le.mp ha)
    rw [decide_eq_true_eq]
    constructor
    · rintro ⟨h1, h2⟩
      have hb : (0 : ℝ) < b := by exact_mod_cast h1
      have hb2 : 0 < (b : ℝ) * Real.sqrt 3 := mul_pos hb hp
      rw [← Rat.cast_lt (K := ℝ), key, Rat.cast_mul] at h2
      nlinarith
    · intro h
      have hb2 : 0 < (b : ℝ) * Real.sqrt 3 := by linarith
      have hb : (0 : ℝ) < b := by
        rcases pos_and_pos_or_neg_and_neg_of_mul_pos hb2 with h | h
        · exact h.1
        · exact absurd hp (not_lt.mpr h.2.le)
      refine ⟨by exact_mod_cast hb, ?_⟩
      rw [← Rat.cast_lt (K := ℝ), key, Rat.cast_mul]
      nlinarith

/-- A way the free reals can lie: which exact numbers are positive, for some real numbers `x₀, x₁, …`. -/
structure RealOrder where
  positive  : Exact → Bool
  from_real : ∃ v : Nat → ℝ, ∀ x, positive x = true ↔ 0 < exactValue v x

/-- The order is that of the real numbers `v 0, v 1, …`. -/
def RealOrder.Represents (o : RealOrder) (v : Nat → ℝ) : Prop := ∀ x, o.positive x = true ↔ 0 < exactValue v x

theorem termsValue_zero (cs : List Surd) (n : Nat) : termsValue (fun _ => 0) cs n = 0 := by
  induction cs generalizing n with
  | nil => rfl
  | cons c cs ih => simp [termsValue, ih]

/-- One such way, which shows that there is any: every free real is 0. Nothing rests on it. -/
def RealOrder.allZero : RealOrder :=
  { positive := fun x => surdPos x.known
    from_real := ⟨fun _ => 0, fun x => by rw [surdPos_iff, exactValue, termsValue_zero, add_zero]⟩ }

end Sys2Proof.Machine

/-- A FREE VALUE: how the free reals of `REAL` lie (00_scope R7). Any real numbers are possible. The argument says only
that there is an order. -/
opaque Sys2Proof.Config.realOrder [Inhabited Sys2Proof.Machine.RealOrder] : Sys2Proof.Machine.RealOrder

namespace Sys2Proof.Machine

/-- The order of the machine's exact numbers: unknown but for coming from real numbers. -/
def machineOrder : RealOrder := @Config.realOrder ⟨RealOrder.allZero⟩

/-- Whether an exact number is positive: computed where no free real has a coefficient but 0. -/
def exactPos (o : RealOrder) (x : Exact) : Bool :=
  if ∀ c ∈ x.free, c = surdOfRat 0 then surdPos x.known else o.positive x

/-- `a < b` of the exact values. -/
def exactLt (o : RealOrder) (x y : Exact) : Bool := exactPos o (exactSub y x)

/-- Whether two exact numbers are the same real number, which two different sums can be: neither is the smaller. -/
def exactSame (o : RealOrder) (x y : Exact) : Bool := !exactLt o x y && !exactLt o y x

/-! ## The arithmetic -/

/-- The arithmetic of `REAL` with the free reals lying as `o` says: `RN(r) = r`, every value is finite and `SQRT3_CONST`
is √3 (00_scope R7, R10, R13). -/
def exactArithOf (o : RealOrder) : Arith Exact :=
  { add := exactAdd, sub := exactSub, neg := exactNeg, lt := exactLt o, finite := fun _ => true
    mulSqrt3 := exactScale surdSqrt3, mulTwo := exactScale (surdOfRat 2)
    divTwo := exactScale (surdOfRat (mkRat 1 2)), divThree := exactScale (surdOfRat (mkRat 1 3))
    divSix := exactScale (surdOfRat (mkRat 1 6))
    zero := exactOfRat 0, half := exactOfRat (mkRat 1 2), one := exactOfRat 1, draw := Config.drawExact }

/-- The arithmetic of `REAL`. -/
def exactArith : Arith Exact := exactArithOf machineOrder

end Sys2Proof.Machine
end

