-- ==== Sys2Proof/Machine/Operands.lean ====
section
/-!
DEFINITION. The operands of a command, taken whole from their ports as numbers of the instance's format
(30_encoding R82). There are no other operand forms: no immediates, registers or addresses.
-/

namespace Sys2Proof.Machine

/-- A command's operands as numbers of the configured format, with the format's `SQRT3_CONST`. -/
inductive Operands where
  | binary32 (sqrt3 ua ub : BitVec 32)
  | binary64 (sqrt3 ua ub : BitVec 64)
  | real (ua ub : Exact)
  deriving DecidableEq, Repr

/-- The operands read as the format says; none where a port of the instance could not carry them (log 14). -/
def readOperands (f : NumFormat) (ua ub : PortNum) : Option Operands :=
  match f, ua, ub with
  | .binary32 c, .b32 a, .b32 b => some (.binary32 c a b)
  | .binary64 c, .b64 a, .b64 b => some (.binary64 c a b)
  | .real, .real a, .real b => some (.real a b)
  | _, _, _ => none

/-- `isFinite` of a `Num` (00_scope R13). -/
def numFinite : PortNum → Bool
  | .b32 w => ieeeFinite binary32Layout w
  | .b64 w => ieeeFinite binary64Layout w
  | .real _ => true

/-- Whether two `Num`s are the same value of a port: the same bit pattern, or in `REAL` the same real number (20_memory
R61). -/
def sameNum : PortNum → PortNum → Bool
  | .b32 v, .b32 w => decide (v = w)
  | .b64 v, .b64 w => decide (v = w)
  | .real x, .real y => exactSame machineOrder x y
  | _, _ => false

end Sys2Proof.Machine
end

