-- ==== Sys2Proof/Machine/Ops.lean ====
section
/-!
DEFINITION. The named operations over the registers and ports: the atomic update of 44 R176, taking `InvalidInput`
(60 R201), reset (70 R220), reading an output port (44 R177), and `modulate` itself (44 R174).
-/

namespace Sys2Proof.Machine

/-- The writes of the six result registers (44 R174), and the count of the free values taken. -/
def State.storeResults (s : State) (ua ub : PortNum) (m : Modulation PortNum) : State :=
  { s with
    lastUa := ua, lastUb := ub, lastSector := sectorCode s.cfg.sectorScheme m.sectors
    lastMa := m.duty.a, lastMb := m.duty.b, lastMc := m.duty.c, draws := m.draws }

/-- The register writes of a completed command, all together (44 R174, R176), and `done_o = 1`. -/
def State.commit (s : State) (ua ub : PortNum) (m : Modulation PortNum) : State :=
  (((s.storeResults ua ub m).setValid).writeErr false).setDone true

/-- Taking `InvalidInput`: `LAST_ERR <- 1` and `done_o = 1`, every other register as it was (60 R201). The block has
no trap entry and nothing to return from (60 R204). -/
def State.raiseInvalidInput (s : State) : State := (s.writeErr true).setDone true

/-- The body `modulate(mode, ua, ub)` (44 R174) in one number format, `toNum` being what a register holds of a number. -/
def modulateIn {α : Type} (A : Arith α) (toNum : α → PortNum) (mode : Mode) (ua ub : α) (s : State) : State :=
  if s.cfg.inputCheck && !(A.finite ua && A.finite ub) then s.raiseInvalidInput
  else s.commit (toNum ua) (toNum ub) ((modulation A s.cfg mode s.draws ua ub).map toNum)

/-- `modulate(mode, ua, ub)` (44 R174) in the instance's number format (00_scope R6). -/
def modulate (mode : Mode) (ua ub : PortNum) (s : State) : Host.Outcome State Fault Refusal :=
  match readOperands s.cfg.numFormat ua ub with
  | some (.binary32 c a b) => .next (modulateIn (arith32 c) PortNum.b32 mode a b s)
  | some (.binary64 c a b) => .next (modulateIn (arith64 c) PortNum.b64 mode a b s)
  | some (.real a b) => .next (modulateIn exactArith PortNum.real mode a b s)
  | none => .refused .operandFormat

/-- A step with `rst = 1`: the writes of 70 R221, any command in flight discarded, `done_o = 0` (70 R220). The
configuration stays, and so do the host's coming steps and the free values taken. DESIGN CHOICE (log 5, 7). -/
def State.applyReset (s : State) : State := { State.resetOf s.cfg s.host with draws := s.draws }

/-- Whether a port shows a result register, which has no value while `RESULT_VALID = 0` (60 R206). -/
def portIsResult : OutPort → Bool
  | .ma | .mb | .mc | .sector | .ua | .ub => true
  | .valid | .err | .done => false

/-- What a port shows at the end of the last step (10_state R44): its register, or `done_o` of that step. DESIGN CHOICE
(log 6, 8). -/
def State.portValue (s : State) : OutPort → PortValue
  | .ma => .num s.lastMa
  | .mb => .num s.lastMb
  | .mc => .num s.lastMc
  | .sector => .sector s.lastSector
  | .ua => .num s.lastUa
  | .ub => .num s.lastUb
  | .valid => .bit s.resultValid
  | .err => .bit s.err
  | .done => .bit s.doneO

/-- The host samples an output port (44 R177): while `RESULT_VALID = 0` a result port is the fault `READ_UNWRITTEN` of 60
R206 (10_state R45, R50). The other ports never fault. DEDUCED (log 9). -/
def State.readPort (s : State) (p : OutPort) : Except Fault PortValue :=
  if portIsResult p && !s.resultValid then .error .readUnwritten else .ok (s.portValue p)

/-- Whether sampling these ports faults. -/
def State.readsFault (s : State) (ports : List OutPort) : Bool :=
  ports.any portIsResult && !s.resultValid

end Sys2Proof.Machine
end

