-- ==== Sys2Proof/Machine/Facade.lean ====
section
/-!
DEFINITION. The meanings of the three commands (44 R171, R172, R173).
-/

namespace Sys2Proof.Machine

/-- `IDLE`: every register keeps its value and `done_o = 0` (44 R173). -/
def execIdle (s : State) : Host.Outcome State Fault Refusal := .next (s.setDone false)

/-- `MODULATE.SVPWM ua, ub`: `modulate(0, ua, ub)` (44 R171). -/
def execModulateSvpwm (ua ub : PortNum) (s : State) : Host.Outcome State Fault Refusal := modulate .svpwm ua ub s

/-- `MODULATE.THIPWM ua, ub`: `modulate(1, ua, ub)` (44 R172). -/
def execModulateThipwm (ua ub : PortNum) (s : State) : Host.Outcome State Fault Refusal := modulate .thipwm ua ub s

end Sys2Proof.Machine
end

