-- ==== Sys2Proof/Machine/Dispatch.lean ====
section
/-! DEFINITION. One arm per command: the meaning of each. -/

namespace Sys2Proof.Machine

def exec (i : Instr) (s : State) : Host.Outcome State Fault Refusal :=
  match i with
  | .idle => Sys2Proof.Machine.execIdle s
  | .modulateSvpwm ua ub => Sys2Proof.Machine.execModulateSvpwm ua ub s
  | .modulateThipwm ua ub => Sys2Proof.Machine.execModulateThipwm ua ub s

end Sys2Proof.Machine
end

