-- ==== Sys2Proof/Machine/Cycle.lean ====
section
/-!
DEFINITION. One step of the block with its host: what the host presents, sampling the output ports, reset, accepting
a command, and the cycles of a command in flight (44 R170, 70 R220 to R226). One step is one clock cycle. DESIGN CHOICE (log 20).
-/

namespace Sys2Proof.Machine

/-- What the input ports carry when the host presents nothing more: no reset, no start, and the operand ports held
for a command in flight. DESIGN CHOICE (log 5). -/
def State.quietStep (s : State) : HostStep :=
  match s.inFlight with
  | some p => { rst := false, words := { cmd := cmdOf false p.mode, ua := p.ua, ub := p.ub }, reads := [] }
  | none =>
    { rst := false, words := { cmd := cmdOf false .svpwm, ua := s.cfg.numFormat.zero, ub := s.cfg.numFormat.zero },
      reads := [] }

/-- What the host presents in the coming step. -/
def State.presented (s : State) : HostStep :=
  match s.host with
  | h :: _ => h
  | [] => s.quietStep

/-- The host has presented its coming step. -/
def State.hostAdvance (s : State) : State := { s with host := s.host.tail }

/-- What the block holds as its command in flight (70 R224). -/
def State.setInFlight (s : State) (p : Option InFlight) : State := { s with inFlight := p }

/-- Whether the operand ports still carry the values of the command in flight (70 R226). -/
def InFlight.held (p : InFlight) (w : CmdWords) : Bool :=
  decide (cmdMode w.cmd = p.mode) && sameNum p.ua w.ua && sameNum p.ub w.ub

/-- Accepting a command that needs more than one cycle (70 R224): the operands are those present now (R226), and
`done_o = 0`. Operands no port could carry are refused. DEDUCED (log 14). -/
def State.accept (s : State) (w : CmdWords) : Host.Outcome State Fault Refusal :=
  if w.wf s.cfg.numFormat then
    .next ((s.setInFlight (some
      { mode := cmdMode w.cmd, ua := w.ua, ub := w.ub, left := s.cfg.latency - 1 })).setDone false)
  else .refused .operandFormat

/-- A cycle of a command in flight (70 R224, R226): a start is a fault, then a changed operand; the last cycle
completes the command, and any other only counts. The order of the faults is DEDUCED (log 10), that the operands are held
through the last cycle too a DESIGN CHOICE (log 11). -/
def State.flightCycle (s : State) (p : InFlight) (w : CmdWords) : Host.Outcome State Fault Refusal :=
  if cmdStart w.cmd then .fault .startWhileBusy
  else if !p.held w then .fault .operandsChanged
  else if p.left ≤ 1 then exec (modulateInstr p.mode p.ua p.ub) (s.setInFlight none)
  else .next ((s.setInFlight (some { p with left := p.left - 1 })).setDone false)

/-- The block's own part of a step (44 R170): reset wins (60 R203); a command in flight goes on; else the presented
command is accepted, and with `LATENCY = 1` completes at once (70 R224). -/
def State.cycle (s : State) (h : HostStep) : Host.Outcome State Fault Refusal :=
  if h.rst then .next s.applyReset
  else match s.inFlight with
    | some p => s.flightCycle p h.words
    | none =>
      if cmdStart h.words.cmd && decide (1 < s.cfg.latency) then s.accept h.words
      else exec (decodeWords h.words) s

/-- A step: the host's samples, which see the registers as the last completed command left them (20_memory R67, log 8),
and then the block's cycle. A sample of a result port while `RESULT_VALID = 0` is the fault `READ_UNWRITTEN` of 60 R206
(10_state R50). DEDUCED (log 8, log 10). -/
def State.hostCycle (s : State) : Host.Outcome State Fault Refusal :=
  if s.readsFault s.presented.reads then .fault .readUnwritten
  else s.hostAdvance.cycle s.presented

/-- The state whose next step presents these words to an idle block. -/
def State.present (s : State) (w : CmdWords) : State :=
  { s with inFlight := none, host := { rst := false, words := w, reads := [] } :: s.host.tail }

end Sys2Proof.Machine
end

