-- ==== Sys2Proof/Machine/Step.lean ====
section
/-! DEFINITION. The step function, and the placing of one command where the next step takes it. -/

namespace Sys2Proof.Machine

/-- One step of the block with its host (44 R170, 70 R224). -/
def step (s : State) : Host.Outcome State Fault Refusal := s.hostCycle

/-- `s` with the command of `nbits` bits `w`, in the opcode table's numbering and with zeros above, on the ports of its
next step, the block not busy. DESIGN CHOICE (log 5, log 15). -/
def State.withFetchWord (s : State) (nbits w : Nat) : State :=
  s.present (tableWords s.cfg.numFormat (w % 2 ^ nbits))

end Sys2Proof.Machine
end

