-- ==== Sys2Proof/Machine/Assembler.lean ====
section
/-!
DEFINITION. The host's notation (30_encoding R90, R91): what a line of a host program puts on the ports. Splitting a
line's text into these parts is no part of the block.
-/

namespace Sys2Proof.Machine

/-- Why a line cannot be written for the instance. -/
inductive AsmError where
  /-- A bit pattern has not exactly W/4 hexadecimal digits, or the format has no patterns (30_encoding R90). Safe. -/
  | hexDigits
  deriving DecidableEq, Repr

/-- The rational number `digits · 10^exp10`. -/
def decimalRat (digits : Nat) : Int → Rat
  | .ofNat k => mkRat (digits * 10 ^ k : Nat) 1
  | .negSucc k => mkRat digits (10 ^ (k + 1))

/-- The `Num` an operand stands for: `RN` of a decimal number, or a bit pattern of W/4 digits (30_encoding R90). A zero
keeps the sign it is written with. DESIGN CHOICE (log 18). -/
def literalNum (f : NumFormat) : Literal → Except AsmError PortNum
  | .decimal neg digits e =>
    let q := signedRat neg (decimalRat digits e)
    match f with
    | .binary32 _ => .ok (.b32 (ieeeRound binary32Layout 32 neg q))
    | .binary64 _ => .ok (.b64 (ieeeRound binary64Layout 64 neg q))
    | .real => .ok (.real (exactOfRat q))
  | .hex nibbles bits =>
    if f.width = some (4 * nibbles) ∧ bits < 2 ^ (4 * nibbles) then .ok (numOfBits f bits) else .error .hexDigits

/-- The pseudo-instruction `MODULATE m, ua, ub` written as the command it stands for (30_encoding R91). -/
def expandLine : HostLine → HostLine
  | .modulate m ua ub =>
    match m.mode with
    | .svpwm => .modulateSvpwm ua ub
    | .thipwm => .modulateThipwm ua ub
  | l => l

/-- The words of a `MODULATE` line. -/
def commandStep (f : NumFormat) (mode : Mode) (ua ub : Literal) : Except AsmError HostStep := do
  let a ← literalNum f ua
  let b ← literalNum f ub
  return { rst := false, words := { cmd := cmdOf true mode, ua := a, ub := b }, reads := [] }

/-- What a line puts on the ports (30_encoding R90), `prev` being the words of the line before: `IDLE`, `RESET` and
`READ` leave the operand ports as they are. DESIGN CHOICE (log 18): their operands are don't cares. -/
def assembleLine (f : NumFormat) (prev : CmdWords) (line : HostLine) : Except AsmError HostStep :=
  match line with
  | .modulateSvpwm ua ub => commandStep f .svpwm ua ub
  | .modulateThipwm ua ub => commandStep f .thipwm ua ub
  | .modulate m ua ub => commandStep f m.mode ua ub
  | .idle mode => .ok { rst := false, words := { prev with cmd := cmdOf false mode }, reads := [] }
  | .reset => .ok { rst := true, words := { prev with cmd := cmdOf false (cmdMode prev.cmd) }, reads := [] }
  | .read => .ok { rst := false, words := { prev with cmd := cmdOf false (cmdMode prev.cmd) }, reads := OutPort.all }

/-- The host steps of a program's lines, after the words `prev`. -/
def assembleAfter (f : NumFormat) (prev : CmdWords) : List HostLine → Except AsmError (List HostStep)
  | [] => .ok []
  | line :: lines => do
    let h ← assembleLine f prev line
    let hs ← assembleAfter f h.words lines
    return h :: hs

/-- The host steps of a program (30_encoding R90). What `mode_i`, `ua_i` and `ub_i` carry before its first line, which lines
without operands then keep, the spec does not say: mode 0 and zero operands. DESIGN CHOICE (log 18). -/
def assemble (f : NumFormat) (lines : List HostLine) : Except AsmError (List HostStep) :=
  assembleAfter f { cmd := cmdOf false .svpwm, ua := f.zero, ub := f.zero } lines

end Sys2Proof.Machine
end

