-- ==== Sys2Proof/Machine/RealNum.lean ====
section
/-!
DEFINITION. Exact arithmetic on the real numbers themselves (00_scope R7): the same stages as the machine's, over Mathlib's
ℝ. The machine holds real numbers as plain data, with free reals among them; statements about `REAL` are made of this
arithmetic, and the machine's `exactArith` is held against it. DESIGN CHOICE (log 4).
-/

namespace Sys2Proof.Machine

/-- The arithmetic of `REAL` over ℝ (00_scope R7, R10). A draw is never taken. -/
noncomputable def realArith : Arith ℝ :=
  { add := fun a b => a + b, sub := fun a b => a - b, neg := fun a => -a, lt := fun a b => decide (a < b)
    finite := fun _ => true
    mulSqrt3 := fun a => Real.sqrt 3 * a, mulTwo := fun a => 2 * a
    divTwo := fun a => a / 2, divThree := fun a => a / 3, divSix := fun a => a / 6
    zero := 0, half := 1 / 2, one := 1, draw := fun _ => 0 }

end Sys2Proof.Machine
end

