-- ==== Sys2Proof/Safety.lean ====
section
/-!
DEFINITION. The terms in which claims speak of a safe run: the invariant of a state, a host that keeps to the protocol
(70 R223, R224, R226), results that are free values, and a duty in [0, 1].
-/

namespace Sys2Proof.Machine

/-- A sector code that the block can write: 0 to 11, or 0 to 5 under `SIX` (30_encoding R84, R85). -/
def sectorCodeValid (scheme : SectorScheme) (code : BitVec 4) : Prop :=
  match scheme with
  | .twelve => code.toNat < 12
  | .six => code.toNat < 6

/-- A command in flight is one the ports could carry, with cycles still to come (70 R224). -/
structure InFlight.Ok (c : Config) (p : InFlight) : Prop where
  ua_holds : c.numFormat.holds p.ua = true
  ub_holds : c.numFormat.holds p.ub = true
  left_pos : 1 ≤ p.left
  left_lt  : p.left < c.latency

/-- The invariant of a state: a legal configuration (00_scope R6), registers of the instance's format (10_state R33 to
R38), a sector code the block can write (30_encoding R84, R85), `LAST_ERR` hardwired without the check (10_state R40)
and a sound command in flight (70 R224). -/
structure State.Inv (s : State) : Prop where
  cfg_wf    : s.cfg.wf = true
  ua_holds  : s.cfg.numFormat.holds s.lastUa = true
  ub_holds  : s.cfg.numFormat.holds s.lastUb = true
  ma_holds  : s.cfg.numFormat.holds s.lastMa = true
  mb_holds  : s.cfg.numFormat.holds s.lastMb = true
  mc_holds  : s.cfg.numFormat.holds s.lastMc = true
  sector_ok : sectorCodeValid s.cfg.sectorScheme s.lastSector
  err_wired : s.cfg.inputCheck = false → s.lastErr = false
  flight_ok : ∀ p, s.inFlight = some p → InFlight.Ok s.cfg p

/-- A `Num` port shows another value than before: another bit pattern, or in `REAL` another real number (20_memory R61),
for all real numbers that the free reals can be (log 4). -/
def NumChanged : PortNum → PortNum → Prop
  | .real x, .real y => ∀ v, machineOrder.Represents v → exactValue v x ≠ exactValue v y
  | before, now => now ≠ before

/-- The words on the ports are no start, and still those of the command in flight: its mode and the values of its operands
(70 R226). -/
structure InFlight.HeldBy (p : InFlight) (w : CmdWords) : Prop where
  noStart : cmdStart w.cmd = false
  mode    : cmdMode w.cmd = p.mode
  ua      : ¬ NumChanged p.ua w.ua
  ub      : ¬ NumChanged p.ub w.ub

/-- The host keeps to the protocol in its coming step: its words fit the ports, it samples result ports only when they
hold values (70 R223), and unless it resets the block it neither starts nor changes the operands while a command is in
flight (70 R224, R226). -/
structure State.HostObeys (s : State) : Prop where
  fits  : s.presented.wf s.cfg.numFormat = true
  reads : s.readsFault s.presented.reads = false
  quiet : ∀ p, s.inFlight = some p → s.presented.rst = false → p.HeldBy s.presented.words

/-- Two states show the same eight registers (10_state R31), `LAST_ERR` as it reads. -/
structure SameRegisters (s t : State) : Prop where
  ua     : t.lastUa = s.lastUa
  ub     : t.lastUb = s.lastUb
  sector : t.lastSector = s.lastSector
  ma     : t.lastMa = s.lastMa
  mb     : t.lastMb = s.lastMb
  mc     : t.lastMc = s.lastMc
  valid  : t.resultValid = s.resultValid
  err    : t.err = s.err

/-- What a command leaves alone: the configuration, the command in flight and the host's coming steps. -/
structure SameSurroundings (s t : State) : Prop where
  cfg      : t.cfg = s.cfg
  inFlight : t.inFlight = s.inFlight
  host     : t.host = s.host

/-- The command is not turned away by the input check: the check is off, or both operands are finite (60 R201). -/
def Accepted (c : Config) (ua ub : PortNum) : Prop :=
  c.inputCheck = false ∨ (numFinite ua = true ∧ numFinite ub = true)

/-- A number of the arithmetic, and no NaN, in [0, 1] (42 R140). -/
def InUnit {α : Type} (A : Arith α) (x : α) : Prop :=
  A.finite x = true ∧ A.lt x A.zero = false ∧ A.lt A.one x = false

/-- A register's number in [0, 1], in whichever format it is. -/
def NumInUnit : PortNum → Prop
  | .b32 w => InUnit (arith32 sqrt3Binary32) w
  | .b64 w => InUnit (arith64 sqrt3Binary64) w
  | .real x => InUnit exactArith x

/-- The arithmetics of the machine: one per number format, with any `SQRT3_CONST` and any free reals (00_scope R6, R7,
R10). -/
inductive MachineArith : {α : Type} → Arith α → Prop
  | binary32 (sqrt3 : BitVec 32) : MachineArith (arith32 sqrt3)
  | binary64 (sqrt3 : BitVec 64) : MachineArith (arith64 sqrt3)
  | real (o : RealOrder) : MachineArith (exactArithOf o)

/-- The arithmetic of an instance, and what its ports and registers hold of a number of it (00_scope R6, 20_memory R61). -/
inductive InFormat (c : Config) : {α : Type} → Arith α → (α → PortNum) → Prop
  | binary32 (sqrt3 : BitVec 32) (h : c.numFormat = .binary32 sqrt3) : InFormat c (arith32 sqrt3) PortNum.b32
  | binary64 (sqrt3 : BitVec 64) (h : c.numFormat = .binary64 sqrt3) : InFormat c (arith64 sqrt3) PortNum.b64
  | real (h : c.numFormat = .real) : InFormat c exactArith PortNum.real

/-- Every value the last test of 44 R174 names is finite, for a command of the mode whose sector is `s12`. -/
def FinitePath {α : Type} (A : Arith α) (c : Config) (mode : Mode) (s12 : Fin 12) (ua ub : α) : Prop :=
  let t := project A ua ub
  let d := pairCoeff A (pairOf s12) t
  let b := cmBounds A d
  let vcm := commonMode A c.cmCrossed mode s12 d b
  allFinite A t b vcm (dutyAssign A (pairOf s12) d vcm) = true

/-- The least magnitude that `RN` takes to an infinity: half a quantum above the largest finite value. -/
def overflowThreshold (L : IeeeLayout) : ℚ := (2 ^ (L.fracBits + 2) - 1) * 2 ^ (L.bias - L.fracBits - 1)

/-- `RN` picks a nearest finite value, the even one of two, with the sign of `q` (of a zero `q`, the sign asked for); from
the threshold on it gives the infinity of that sign, and nothing else is ever given. -/
def RoundsToNearestEven (L : IeeeLayout) (w : Nat) : Prop :=
  ∀ (zeroNeg : Bool) (q : ℚ),
    (∀ s m, ieeeValue L (ieeeRound L w zeroNeg q) = .finite s m →
      s = (if q = 0 then zeroNeg else decide (q < 0)) ∧
      ∀ (y : BitVec w) (t : Bool) (n : ℚ), ieeeValue L y = .finite t n →
        |signedRat s m - q| ≤ |signedRat t n - q| ∧
        (|signedRat s m - q| = |signedRat t n - q| →
          signedRat s m = signedRat t n ∨ (ieeeRound L w zeroNeg q).toNat % 2 = 0)) ∧
    (ieeeValue L (ieeeRound L w zeroNeg q) = .inf (decide (q < 0)) ↔ overflowThreshold L ≤ |q|) ∧
    (|q| < overflowThreshold L → ∃ s m, ieeeValue L (ieeeRound L w zeroNeg q) = .finite s m)

/-- R10: the operations on two finite numbers are `RN` of the exact result, with the sign an exact zero result has; a
quotient by 0 is an infinity, or a NaN of 0 by 0. -/
def RoundsExactResult (L : IeeeLayout) (w : Nat) : Prop :=
  ∀ (x y : BitVec w) (s t : Bool) (m n : ℚ), ieeeValue L x = .finite s m → ieeeValue L y = .finite t n →
    ieeeAdd L x y = ieeeRound L w (s && t) (signedRat s m + signedRat t n) ∧
    ieeeSub L x y = ieeeRound L w (s && !t) (signedRat s m - signedRat t n) ∧
    ieeeMul L x y = ieeeRound L w (s != t) (signedRat s m * signedRat t n) ∧
    (n ≠ 0 → ieeeDiv L x y = ieeeRound L w (s != t) (signedRat s m / signedRat t n)) ∧
    (n = 0 → ieeeValue L (ieeeDiv L x y) = if m = 0 then .nan else .inf (s != t))

/-- R10: the special values. An operation with a NaN is a NaN; the infinities go as in IEEE 754; and negation flips the sign
bit and nothing else. -/
structure SpecialValues (L : IeeeLayout) (w : Nat) : Prop where
  nan : ∀ x y : BitVec w, ieeeValue L x = .nan ∨ ieeeValue L y = .nan →
    ieeeValue L (ieeeAdd L x y) = .nan ∧ ieeeValue L (ieeeSub L x y) = .nan ∧
    ieeeValue L (ieeeMul L x y) = .nan ∧ ieeeValue L (ieeeDiv L x y) = .nan
  inf_inf : ∀ (x y : BitVec w) (s t : Bool), ieeeValue L x = .inf s → ieeeValue L y = .inf t →
    ieeeValue L (ieeeAdd L x y) = (if s = t then .inf s else .nan) ∧
    ieeeValue L (ieeeSub L x y) = (if s = t then .nan else .inf s) ∧
    ieeeValue L (ieeeMul L x y) = .inf (s != t) ∧ ieeeValue L (ieeeDiv L x y) = .nan
  inf_finite : ∀ (x y : BitVec w) (s t : Bool) (n : ℚ), ieeeValue L x = .inf s → ieeeValue L y = .finite t n →
    ieeeValue L (ieeeAdd L x y) = .inf s ∧ ieeeValue L (ieeeSub L x y) = .inf s ∧
    ieeeValue L (ieeeMul L x y) = (if n = 0 then .nan else .inf (s != t)) ∧
    ieeeValue L (ieeeDiv L x y) = .inf (s != t)
  finite_inf : ∀ (x y : BitVec w) (s t : Bool) (m : ℚ), ieeeValue L x = .finite s m → ieeeValue L y = .inf t →
    ieeeValue L (ieeeAdd L x y) = .inf t ∧ ieeeValue L (ieeeSub L x y) = .inf (!t) ∧
    ieeeValue L (ieeeMul L x y) = (if m = 0 then .nan else .inf (s != t)) ∧
    ieeeValue L (ieeeDiv L x y) = .finite (s != t) 0
  neg : ∀ x : BitVec w, signField L (ieeeNeg L x) = !signField L x ∧ expField L (ieeeNeg L x) = expField L x ∧
    fracField L (ieeeNeg L x) = fracField L x

/-- R11: the ordered comparison, for a NaN, for numbers, for the infinities and for the zeros of both signs. -/
def OrderedComparison (L : IeeeLayout) (w : Nat) : Prop :=
  (∀ x y : BitVec w, ieeeValue L x = .nan → ieeeLt L x y = false ∧ ieeeLt L y x = false) ∧
  (∀ (x y : BitVec w) (s t : Bool) (m n : ℚ), ieeeValue L x = .finite s m → ieeeValue L y = .finite t n →
    (ieeeLt L x y = true ↔ signedRat s m < signedRat t n)) ∧
  (∀ (x y : BitVec w) (s t : Bool), ieeeValue L x = .inf s → ieeeValue L y = .inf t →
    (ieeeLt L x y = true ↔ s = true ∧ t = false)) ∧
  (∀ (x y : BitVec w) (s t : Bool) (n : ℚ), ieeeValue L x = .inf s → ieeeValue L y = .finite t n →
    (ieeeLt L x y = true ↔ s = true) ∧ (ieeeLt L y x = true ↔ s = false)) ∧
  (∀ x : BitVec w, ieeeLt L x (ieeePack L w true 0) = ieeeLt L x 0#w ∧ ieeeLt L (ieeePack L w true 0) x = ieeeLt L 0#w x)

/-- A command completes and leaves this sector code and these duties. -/
def LeavesResult (s : State) (i : Instr) (code : BitVec 4) (a b c : PortNum) : Prop :=
  ∃ t, exec i s = .next t ∧ t.lastSector = code ∧ t.lastMa = a ∧ t.lastMb = b ∧ t.lastMc = c

/-- What R174 says a command of the mode leaves, when every value it names is finite and the check lets it through: the
registers, each by its rule, and no free value taken. -/
def DefinedResult (mode : Mode) (instr : PortNum → PortNum → Instr) : Prop :=
  ∀ (s : State) (α : Type) (A : Arith α) (toNum : α → PortNum), InFormat s.cfg A toNum → ∀ ua ub : α,
    Accepted s.cfg (toNum ua) (toNum ub) →
    let k := classifyTree A (project A ua ub)
    FinitePath A s.cfg mode k.s12 ua ub →
    let p := pairOf k.s12
    let d := pairCoeff A p (project A ua ub)
    let vcm := commonMode A s.cfg.cmCrossed mode k.s12 d (cmBounds A d)
    let u := dutyAssign A p d vcm
    ∃ t, exec (instr (toNum ua) (toNum ub)) s = .next t ∧
      t.lastUa = toNum ua ∧ t.lastUb = toNum ub ∧ t.lastSector = sectorCode s.cfg.sectorScheme k ∧
      t.lastMa = toNum (if s.cfg.clampDuty then clampUnit A u.a else u.a) ∧
      t.lastMb = toNum (if s.cfg.clampDuty then clampUnit A u.b else u.b) ∧
      t.lastMc = toNum (if s.cfg.clampDuty then clampUnit A u.c else u.c) ∧
      t.resultValid = true ∧ t.err = false ∧ t.doneO = true ∧ SameSurroundings s t ∧ t.draws = s.draws

end Sys2Proof.Machine
end

