-- ==== Sys2Proof/Certificates/Slice0/Obligations.lean ====
section
/-!
DEFINITION. The statements about the model, from the numbered rules of spec/. Statements "over ℝ" use `realArith`, the same
stages over all real numbers (log 4); `FinitePath` and `InFormat` are in Safety.
-/

open Sys2Proof Sys2Proof.Machine

/-! ## Encoding (30_encoding) -/

/-- R80, R81, R87 (the words `IDLE` is written with are R90's `0b00` and, by log 15, zeros): a command's words and its
frame decode to it, with every operand the ports can carry. -/
def Obligations.DecodeEncodeRoundTrip : Prop :=
  ∀ (f : NumFormat) (i : Instr), i.wf f = true →
    decodeWords (encodeWords f i) = i ∧
    ∀ width, f.width = some width →
      ∃ n, encodeFrame f i = some n ∧ decodeFrame f (2 + 2 * width) n = .ok i

/-- R81, R82, R88: every frame of `2 + 2·W` bits is a command the instance can be given; a frame whose start bit is 1
is the frame of its command, so no bit of it is dropped, and one whose start bit is 0 is `IDLE`. -/
def Obligations.EveryFrameIsACommand : Prop :=
  ∀ (f : NumFormat) (width n : Nat), f.width = some width → n < 2 ^ (2 + 2 * width) →
    ∃ i, decodeFrame f (2 + 2 * width) n = .ok i ∧ i.wf f = true ∧
      ((n < 2 ^ (1 + 2 * width) ∧ i = .idle) ∨ (2 ^ (1 + 2 * width) ≤ n ∧ encodeFrame f i = some n))

/-- R87: the opcode map. -/
def Obligations.OpcodeMap : Prop :=
  ∀ ua ub : PortNum,
    decodeWords { cmd := 0b00#2, ua := ua, ub := ub } = .idle ∧
    decodeWords { cmd := 0b01#2, ua := ua, ub := ub } = .idle ∧
    decodeWords { cmd := 0b10#2, ua := ua, ub := ub } = .modulateSvpwm ua ub ∧
    decodeWords { cmd := 0b11#2, ua := ua, ub := ub } = .modulateThipwm ua ub

/-- R80, R89: one command length, `2 + 2·W` bits; nothing else is a frame. R61, log 16: `REAL` has no bit layout and no frame. -/
def Obligations.FrameLengthChecked : Prop :=
  ∀ (f : NumFormat) (len n : Nat),
    (∃ i, decodeFrame f len n = .ok i) ↔ ∃ width, f.width = some width ∧ len = 2 + 2 * width ∧ n < 2 ^ len

/-- R81, R87 and 95_test_vectors P1, P2, P6: command words written out bit by bit, alone and as frames. -/
def Obligations.WrittenWordsDecode : Prop :=
  decodeTableWord 8 0b00 = some .idle ∧
  decodeTableWord 8 0b01 = some .idle ∧
  decodeTableWord 8 0b10 = some (.modulateSvpwm (.b64 0#64) (.b64 0#64)) ∧
  decodeTableWord 8 0b11 = some (.modulateThipwm (.b64 0#64) (.b64 0#64)) ∧
  decodeFrame (.binary64 sqrt3Binary64) 130 0x23FF00000000000000000000000000000 =
    .ok (.modulateSvpwm (.b64 0x3FF0000000000000#64) (.b64 0x0000000000000000#64)) ∧
  decodeFrame (.binary64 sqrt3Binary64) 130 0x3BFF00000000000000000000000000000 =
    .ok (.modulateThipwm (.b64 0xBFF0000000000000#64) (.b64 0x0000000000000000#64)) ∧
  decodeFrame (.binary32 sqrt3Binary32) 66 0x3000000003F800000 =
    .ok (.modulateThipwm (.b32 0x00000000#32) (.b32 0x3F800000#32))

/-- R91: `MODULATE m, ua, ub` is the command of the mode `m` names, by name or by number. -/
def Obligations.PseudoInstructionExpands : Prop :=
  ∀ (f : NumFormat) (prev : CmdWords) (ua ub : Literal),
    assembleLine f prev (.modulate .svpwm ua ub) = assembleLine f prev (.modulateSvpwm ua ub) ∧
    assembleLine f prev (.modulate .zero ua ub) = assembleLine f prev (.modulateSvpwm ua ub) ∧
    assembleLine f prev (.modulate .thipwm ua ub) = assembleLine f prev (.modulateThipwm ua ub) ∧
    assembleLine f prev (.modulate .one ua ub) = assembleLine f prev (.modulateThipwm ua ub)

/-- R90, log 18: a `MODULATE` line with readable operands presents its command; `IDLE` presents no command, as `0b00` or in
its second spelling; `RESET` asserts `rst`; `READ` presents no command and no reset and samples every port. A decimal
operand is `RN` of the number written, and a bit pattern is read exactly when it has W/4 digits. -/
def Obligations.AssembledLineDecodes : Prop :=
  (∀ (f : NumFormat) (prev : CmdWords) (ua ub : Literal) (a b : PortNum),
    literalNum f ua = .ok a → literalNum f ub = .ok b →
    (∃ h, assembleLine f prev (.modulateSvpwm ua ub) = .ok h ∧ h.rst = false ∧
      decodeWords h.words = .modulateSvpwm a b ∧ h.wf f = true ∧ h.reads = []) ∧
    (∃ h, assembleLine f prev (.modulateThipwm ua ub) = .ok h ∧ h.rst = false ∧
      decodeWords h.words = .modulateThipwm a b ∧ h.wf f = true ∧ h.reads = [])) ∧
  (∀ (f : NumFormat) (prev : CmdWords),
    (∀ mode, ∃ h, assembleLine f prev (.idle mode) = .ok h ∧ h.rst = false ∧ decodeWords h.words = .idle ∧
      h.words.cmd = (match mode with | .svpwm => 0b00#2 | .thipwm => 0b01#2) ∧ h.reads = []) ∧
    (∃ h, assembleLine f prev .reset = .ok h ∧ h.rst = true ∧ decodeWords h.words = .idle ∧ h.reads = []) ∧
    (∃ h, assembleLine f prev .read = .ok h ∧ h.rst = false ∧ decodeWords h.words = .idle ∧ ∀ p : OutPort, p ∈ h.reads)) ∧
  (∀ (neg : Bool) (digits : Nat) (e : Int), let q : ℚ := (if neg then -1 else 1) * (digits * (10 : ℚ) ^ e)
    (∀ c, literalNum (.binary32 c) (.decimal neg digits e) = .ok (.b32 (ieeeRound binary32Layout 32 neg q))) ∧
    (∀ c, literalNum (.binary64 c) (.decimal neg digits e) = .ok (.b64 (ieeeRound binary64Layout 64 neg q))) ∧
    literalNum .real (.decimal neg digits e) = .ok (.real (exactOfRat q))) ∧
  (∀ (f : NumFormat) (nibbles bits : Nat) (x : PortNum), literalNum f (.hex nibbles bits) = .ok x ↔
    f.width = some (4 * nibbles) ∧ f.holds x = true ∧ bitsOfNum x = some bits)

/-! ## Arithmetic (00_scope R10 to R13) -/

/-- R10 (the IEEE meaning supplied, log 13): `RN` is round-to-nearest, ties-to-even, with gradual underflow and with overflow
to the infinity of the number's sign, in both binary formats; a zero result has the number's sign, or, of 0, the sign asked
for. -/
def Obligations.RoundingIsNearestEven : Prop :=
  RoundsToNearestEven binary32Layout 32 ∧ RoundsToNearestEven binary64Layout 64

/-- R10 (the IEEE meaning supplied, log 13): each operation is evaluated on the exact values of its operands and rounded
once, an exact zero result having its IEEE sign; and the special values of each operation and of negation, in both binary
formats. -/
def Obligations.OperationsRoundOnce : Prop :=
  (RoundsExactResult binary32Layout 32 ∧ SpecialValues binary32Layout 32) ∧
  (RoundsExactResult binary64Layout 64 ∧ SpecialValues binary64Layout 64)

/-- R11 (the IEEE meaning supplied, log 13): a comparison with a NaN is false, −0 equals +0, an infinity lies beyond every
number, and numbers compare by their exact values, in both binary formats. -/
def Obligations.ComparisonsAreOrdered : Prop :=
  OrderedComparison binary32Layout 32 ∧ OrderedComparison binary64Layout 64

/-- R13: the two clamp forms agree when `lo ≤ hi` and differ when `hi < v < lo`, in every number format. -/
def Obligations.ClampFormsAgreeOnOrderedBounds : Prop :=
  ∀ (α : Type) (A : Arith α), MachineArith A → ∀ v lo hi : α,
    (A.lt hi lo = false → clampLoFirst A v lo hi = clampHiFirst A v lo hi) ∧
    (A.lt hi v = true → A.lt v lo = true → clampLoFirst A v lo hi = lo ∧ clampHiFirst A v lo hi = hi)

/-! ## voltage_projector (40) -/

/-- R100: the projections over ℝ. -/
def Obligations.ProjectionFormulas : Prop :=
  ∀ ua ub : ℝ, project realArith ua ub =
    { ta := ub, tb := (-Real.sqrt 3 * ua - ub) / 2, tc := (Real.sqrt 3 * ua - ub) / 2 }

/-- R102: the exact projections sum to 0. -/
def Obligations.ProjectionsBalance : Prop :=
  ∀ ua ub : ℝ, (project realArith ua ub).ta + (project realArith ua ub).tb + (project realArith ua ub).tc = 0

/-- R105: the exact projections of `(r·cos θ, r·sin θ)` are `r·sin θ`, `r·sin(θ − 120°)` and `r·sin(θ + 120°)`. -/
def Obligations.ProjectionsPolarReading : Prop :=
  ∀ r θ : ℝ, project realArith (r * Real.cos θ) (r * Real.sin θ) =
    { ta := r * Real.sin θ, tb := r * Real.sin (θ - 2 * Real.pi / 3), tc := r * Real.sin (θ + 2 * Real.pi / 3) }

/-- R103, R134, R139: the evaluation order of PROJECT, CM_BOUNDS and the duty values in a binary format, and that of
the SpaceVectorPWM common mode (R135), with the literals' encodings written out. -/
def Obligations.BinaryEvaluationOrder : Prop :=
  (∀ c ua ub : BitVec 64,
    project (arith64 c) ua ub =
      { ta := ub
        tb := ieeeDiv binary64Layout (ieeeSub binary64Layout (ieeeNeg binary64Layout (ieeeMul binary64Layout c ua)) ub)
          0x4000000000000000#64
        tc := ieeeDiv binary64Layout (ieeeSub binary64Layout (ieeeMul binary64Layout c ua) ub) 0x4000000000000000#64 }) ∧
  (∀ c d1 d2 : BitVec 64,
    cmBounds (arith64 c) { d1 := d1, d2 := d2 } =
      { v0min := ieeeAdd binary64Layout
          (ieeeAdd binary64Layout 0xBFE0000000000000#64 (ieeeDiv binary64Layout d1 0x4008000000000000#64))
          (ieeeDiv binary64Layout (ieeeMul binary64Layout 0x4000000000000000#64 d2) 0x4008000000000000#64)
        v0max := ieeeSub binary64Layout
          (ieeeSub binary64Layout 0x3FE0000000000000#64
            (ieeeDiv binary64Layout (ieeeMul binary64Layout 0x4000000000000000#64 d1) 0x4008000000000000#64))
          (ieeeDiv binary64Layout d2 0x4008000000000000#64) }) ∧
  (∀ c d1 d2 v : BitVec 64,
    let base := ieeeSub binary64Layout
      (ieeeSub binary64Layout (ieeeAdd binary64Layout 0x3FE0000000000000#64 v)
        (ieeeDiv binary64Layout d1 0x4008000000000000#64))
      (ieeeDiv binary64Layout (ieeeMul binary64Layout 0x4000000000000000#64 d2) 0x4008000000000000#64)
    dutyLadder (arith64 c) { d1 := d1, d2 := d2 } v =
      (base, ieeeAdd binary64Layout base d2, ieeeAdd binary64Layout (ieeeAdd binary64Layout base d2) d1)) ∧
  (∀ c d1 d2 : BitVec 64, svpwmRaw (arith64 c) { d1 := d1, d2 := d2 } =
    ieeeDiv binary64Layout (ieeeSub binary64Layout d2 d1) 0x4018000000000000#64) ∧
  (∀ c d1 d2 : BitVec 32, svpwmRaw (arith32 c) { d1 := d1, d2 := d2 } =
    ieeeDiv binary32Layout (ieeeSub binary32Layout d2 d1) 0x40C00000#32) ∧
  (∀ c ua ub : BitVec 32,
    project (arith32 c) ua ub =
      { ta := ub
        tb := ieeeDiv binary32Layout (ieeeSub binary32Layout (ieeeNeg binary32Layout (ieeeMul binary32Layout c ua)) ub)
          0x40000000#32
        tc := ieeeDiv binary32Layout (ieeeSub binary32Layout (ieeeMul binary32Layout c ua) ub) 0x40000000#32 }) ∧
  (∀ c d1 d2 : BitVec 32,
    cmBounds (arith32 c) { d1 := d1, d2 := d2 } =
      { v0min := ieeeAdd binary32Layout
          (ieeeAdd binary32Layout 0xBF000000#32 (ieeeDiv binary32Layout d1 0x40400000#32))
          (ieeeDiv binary32Layout (ieeeMul binary32Layout 0x40000000#32 d2) 0x40400000#32)
        v0max := ieeeSub binary32Layout
          (ieeeSub binary32Layout 0x3F000000#32
            (ieeeDiv binary32Layout (ieeeMul binary32Layout 0x40000000#32 d1) 0x40400000#32))
          (ieeeDiv binary32Layout d2 0x40400000#32) }) ∧
  (∀ c d1 d2 v : BitVec 32,
    let base := ieeeSub binary32Layout
      (ieeeSub binary32Layout (ieeeAdd binary32Layout 0x3F000000#32 v) (ieeeDiv binary32Layout d1 0x40400000#32))
      (ieeeDiv binary32Layout (ieeeMul binary32Layout 0x40000000#32 d2) 0x40400000#32)
    dutyLadder (arith32 c) { d1 := d1, d2 := d2 } v =
      (base, ieeeAdd binary32Layout base d2, ieeeAdd binary32Layout (ieeeAdd binary32Layout base d2) d1))

/-! ## sector_classifier (41) -/

/-- R110, R111, R112, R113: the classification tables, each `≤` and `≥` being the else of its strict partner, and each
tie taking the else column; for every number format. -/
def Obligations.ClassifierTables : Prop :=
  ∀ (α : Type) (A : Arith α) (t : Proj α),
    (A.lt A.zero t.ta = true → A.lt A.zero t.tc = true →
      classifyTree A t = { s6 := 0, s12 := if A.lt t.ta t.tc then 0 else 1 }) ∧
    (A.lt A.zero t.ta = true → A.lt A.zero t.tc = false → A.lt t.tb A.zero = true →
      classifyTree A t = { s6 := 1, s12 := if A.lt t.tb t.tc then 2 else 3 }) ∧
    (A.lt A.zero t.ta = true → A.lt A.zero t.tc = false → A.lt t.tb A.zero = false →
      classifyTree A t = { s6 := 2, s12 := if A.lt t.tb t.ta then 4 else 5 }) ∧
    (A.lt A.zero t.ta = false → A.lt t.tc A.zero = true →
      classifyTree A t = { s6 := 3, s12 := if A.lt t.tc t.ta then 6 else 7 }) ∧
    (A.lt A.zero t.ta = false → A.lt t.tc A.zero = false → A.lt A.zero t.tb = true →
      classifyTree A t = { s6 := 4, s12 := if A.lt t.tc t.tb then 8 else 9 }) ∧
    (A.lt A.zero t.ta = false → A.lt t.tc A.zero = false → A.lt A.zero t.tb = false →
      classifyTree A t = { s6 := 5, s12 := if A.lt t.ta t.tb then 10 else 11 })

/-- R114: both schemes agree, `s6 = s12 div 2`, for every input of every number format, drawn sectors included. -/
def Obligations.SchemesAgree : Prop :=
  ∀ (α : Type) (A : Arith α) (t : Proj α) (n : Nat),
    (classify A t n).1.s6.val = (classify A t n).1.s12.val / 2

/-- R116: over ℝ the 12-sector index of a command at angle θ is the 30° wedge θ lies in, with θ = 0 and the zero
command in sector 11. -/
def Obligations.SectorAngleMap : Prop :=
  (∀ r θ : ℝ, 0 < r → θ ≠ 0 → ∀ k : Fin 12,
    (k.val : ℝ) * (Real.pi / 6) ≤ θ → θ < ((k.val : ℝ) + 1) * (Real.pi / 6) →
    (classifyTree realArith (project realArith (r * Real.cos θ) (r * Real.sin θ))).s12 = k) ∧
  (∀ r : ℝ, 0 ≤ r → (classifyTree realArith (project realArith r 0)).s12 = 11)

/-- R117: a projection that is not finite makes the sector a fresh draw, of which nothing is known but its range; and the
code reported is never a reserved one. That a draw is the free value `Config.drawSector` of a counter is the model's
(log 7). -/
def Obligations.NonfiniteSectorIsDrawn : Prop :=
  (∀ (α : Type) (A : Arith α) (t : Proj α) (n : Nat), projFinite A t = false →
    (classify A t n).1.s12 = Config.drawSector n ∧ (classify A t n).1.s6.val = (Config.drawSector n).val / 2 ∧
    (classify A t n).2 = n + 1) ∧
  (∀ (α : Type) (A : Arith α) (t : Proj α) (n : Nat), projFinite A t = true →
    classify A t n = (classifyTree A t, n)) ∧
  (∀ (α : Type) (A : Arith α) (t : Proj α) (n : Nat) (scheme : SectorScheme),
    sectorCodeValid scheme (sectorCode scheme (classify A t n).1))

/-! ## pwm_duty_synthesizer (42) and third_harmonic_injector (43) -/

/-- R131: the sector-pair coefficients, for every number format. -/
def Obligations.PairCoefficientTable : Prop :=
  ∀ (α : Type) (A : Arith α) (t : Proj α),
    (∀ s12 : Fin 12, s12 = 0 ∨ s12 = 1 → pairCoeff A (pairOf s12) t = { d1 := t.tc, d2 := t.ta }) ∧
    (∀ s12 : Fin 12, s12 = 2 ∨ s12 = 3 → pairCoeff A (pairOf s12) t = { d1 := A.neg t.tc, d2 := A.neg t.tb }) ∧
    (∀ s12 : Fin 12, s12 = 4 ∨ s12 = 5 → pairCoeff A (pairOf s12) t = { d1 := t.ta, d2 := t.tb }) ∧
    (∀ s12 : Fin 12, s12 = 6 ∨ s12 = 7 → pairCoeff A (pairOf s12) t = { d1 := A.neg t.ta, d2 := A.neg t.tc }) ∧
    (∀ s12 : Fin 12, s12 = 8 ∨ s12 = 9 → pairCoeff A (pairOf s12) t = { d1 := t.tb, d2 := t.tc }) ∧
    (∀ s12 : Fin 12, s12 = 10 ∨ s12 = 11 → pairCoeff A (pairOf s12) t = { d1 := A.neg t.tb, d2 := A.neg t.ta })

/-- R132: the coefficients of a classified command are not negative, in every number format. -/
def Obligations.CoefficientsNotNegative : Prop :=
  ∀ (α : Type) (A : Arith α), MachineArith A → ∀ t : Proj α,
    A.lt (pairCoeff A (pairOf (classifyTree A t).s12) t).d1 A.zero = false ∧
    A.lt (pairCoeff A (pairOf (classifyTree A t).s12) t).d2 A.zero = false

/-- R133, R135: the bounds and the unclamped SpaceVectorPWM common mode over ℝ. -/
def Obligations.CommonModeFormulas : Prop :=
  ∀ d1 d2 : ℝ,
    cmBounds realArith { d1 := d1, d2 := d2 } =
      { v0min := -1 / 2 + d1 / 3 + 2 * d2 / 3, v0max := 1 / 2 - 2 * d1 / 3 - d2 / 3 } ∧
    svpwmRaw realArith { d1 := d1, d2 := d2 } = (d2 - d1) / 6

/-- R136: the clamp of the SpaceVectorPWM common mode in every number format: the two forms; and between bounds that are not
crossed, either form gives the lower bound below it, the upper bound above it and the value itself otherwise. R137: over ℝ
ordered bounds leave it at their midpoint, and crossed bounds give V0min under `V0MIN` and V0max under `V0MAX`. -/
def Obligations.SvpwmCommonModeClamp : Prop :=
  (∀ (α : Type) (A : Arith α) (d : Coeff α) (b : Bounds α), let v := svpwmRaw A d
    cmSvpwm A .v0min d b = (if A.lt v b.v0min then b.v0min else if A.lt b.v0max v then b.v0max else v) ∧
    cmSvpwm A .v0max d b = (if A.lt b.v0max v then b.v0max else if A.lt v b.v0min then b.v0min else v)) ∧
  (∀ (α : Type) (A : Arith α), MachineArith A → ∀ (d : Coeff α) (b : Bounds α) (crossed : CmCrossed),
    A.lt b.v0max b.v0min = false → let v := svpwmRaw A d
    (A.lt v b.v0min = true → cmSvpwm A crossed d b = b.v0min) ∧
    (A.lt b.v0max v = true → cmSvpwm A crossed d b = b.v0max) ∧
    (A.lt v b.v0min = false → A.lt b.v0max v = false → cmSvpwm A crossed d b = v)) ∧
  ∀ d : Coeff ℝ, let b := cmBounds realArith d
    (b.v0min ≤ b.v0max → ∀ crossed, cmSvpwm realArith crossed d b = (b.v0min + b.v0max) / 2) ∧
    (b.v0max < b.v0min →
      cmSvpwm realArith .v0min d b = b.v0min ∧ cmSvpwm realArith .v0max d b = b.v0max)

/-- R138: the three values of DUTY_ASSIGN over ℝ, and which phase gets which in every number format. -/
def Obligations.DutyAssignmentTable : Prop :=
  (∀ d1 d2 vcm : ℝ, dutyLadder realArith { d1 := d1, d2 := d2 } vcm =
    (1 / 2 + vcm - d1 / 3 - 2 * d2 / 3, 1 / 2 + vcm - d1 / 3 - 2 * d2 / 3 + d2,
      1 / 2 + vcm - d1 / 3 - 2 * d2 / 3 + d2 + d1)) ∧
  ∀ (α : Type) (A : Arith α) (d : Coeff α) (vcm base second third : α), dutyLadder A d vcm = (base, second, third) →
    dutyAssign A 0 d vcm = { a := third, b := second, c := base } ∧
    dutyAssign A 1 d vcm = { a := second, b := third, c := base } ∧
    dutyAssign A 2 d vcm = { a := base, b := third, c := second } ∧
    dutyAssign A 3 d vcm = { a := base, b := second, c := third } ∧
    dutyAssign A 4 d vcm = { a := second, b := base, c := third } ∧
    dutyAssign A 5 d vcm = { a := third, b := base, c := second }

/-- R140, R141: the final duties, in every number format: with `CLAMP_DUTY = 1` each phase by itself is 0 below 0, 1
above 1 and unchanged otherwise; with `CLAMP_DUTY = 0` all are unchanged. The binary literals are written out. -/
def Obligations.FinalClamp : Prop :=
  (∀ (α : Type) (A : Arith α) (u : Duty α), finalDuty A false u = u ∧
    finalDuty A true u = { a := clampUnit A u.a, b := clampUnit A u.b, c := clampUnit A u.c }) ∧
  (∀ c u : BitVec 32, clampUnit (arith32 c) u =
    if ieeeLt binary32Layout u 0#32 then 0#32 else if ieeeLt binary32Layout 0x3F800000#32 u then 0x3F800000#32 else u) ∧
  (∀ c u : BitVec 64, clampUnit (arith64 c) u =
    if ieeeLt binary64Layout u 0#64 then 0#64
    else if ieeeLt binary64Layout 0x3FF0000000000000#64 u then 0x3FF0000000000000#64 else u) ∧
  (∀ u : ℝ, (u < 0 → clampUnit realArith u = 0) ∧ (1 < u → clampUnit realArith u = 1) ∧
    (0 ≤ u → u ≤ 1 → clampUnit realArith u = u))

/-- R142: over ℝ, before the final clamp, the line-to-line differences are the projections whatever the common mode,
and the mean duty is 1/2 + v_cm, in every pair. -/
def Obligations.LineToLineInvariance : Prop :=
  ∀ (ua ub vcm : ℝ) (p : Fin 6),
    let t := project realArith ua ub
    let u := dutyAssign realArith p (pairCoeff realArith p t) vcm
    u.a - u.b = t.tc ∧ u.b - u.c = t.ta ∧ u.c - u.a = t.tb ∧ (u.a + u.b + u.c) / 3 = 1 / 2 + vcm

/-- R143, R144, R145: over ℝ, with coefficients that are not negative, the unclamped duties are all at least 0 exactly
when v_cm ≥ V0min and all at most 1 exactly when v_cm ≤ V0max; and V0max − V0min = 1 − (d1 + d2). -/
def Obligations.DutiesInRangeBetweenBounds : Prop :=
  ∀ (p : Fin 6) (d : Coeff ℝ) (vcm : ℝ), 0 ≤ d.d1 → 0 ≤ d.d2 →
    let b := cmBounds realArith d
    let u := dutyAssign realArith p d vcm
    ((0 ≤ u.a ∧ 0 ≤ u.b ∧ 0 ≤ u.c) ↔ b.v0min ≤ vcm) ∧
    ((u.a ≤ 1 ∧ u.b ≤ 1 ∧ u.c ≤ 1) ↔ vcm ≤ b.v0max) ∧
    b.v0max - b.v0min = 1 - (d.d1 + d.d2)

/-- R145: over ℝ, `d1 + d2` of a command is the largest magnitude of its projections. -/
def Obligations.CoefficientSumIsLargestProjection : Prop :=
  ∀ ua ub : ℝ,
    let t := project realArith ua ub
    let d := pairCoeff realArith (pairOf (classifyTree realArith t).s12) t
    d.d1 + d.d2 = max |t.ta| (max |t.tb| |t.tc|)

/-- R147: over ℝ, in the linear region, the SpaceVectorPWM duties are those of the min-max form, which knows no
sector: each is 1/2 plus its zero-mean duty less half the sum of the largest and the smallest. In every configuration.
-/
def Obligations.SvpwmIsMinMaxForm : Prop :=
  ∀ (c : Config) (n : Nat) (ua ub : ℝ),
    let t := project realArith ua ub
    let oa := (t.tc - t.tb) / 3
    let ob := (t.ta - t.tc) / 3
    let oc := (t.tb - t.ta) / 3
    let shift := (max oa (max ob oc) + min oa (min ob oc)) / 2
    max |t.ta| (max |t.tb| |t.tc|) ≤ 1 →
    (modulation realArith c .svpwm n ua ub).duty =
      { a := 1 / 2 + oa - shift, b := 1 / 2 + ob - shift, c := 1 / 2 + oc - shift }

/-- R160: the ThirdHarmonicInjectionPWM common mode is one of the two bounds, bit for bit, by the parity of `(s12 + 1)
div 2`; for every number format. -/
def Obligations.ThirdHarmonicSelection : Prop :=
  ∀ (α : Type) (b : Bounds α),
    (∀ s12 : Fin 12, cmThi s12 b = if ((s12.val + 1) / 2) % 2 = 0 then b.v0min else b.v0max) ∧
    (∀ s12 : Fin 12, s12 = 11 ∨ s12 = 0 ∨ s12 = 3 ∨ s12 = 4 ∨ s12 = 7 ∨ s12 = 8 → cmThi s12 b = b.v0min) ∧
    (∀ s12 : Fin 12, s12 = 1 ∨ s12 = 2 ∨ s12 = 5 ∨ s12 = 6 ∨ s12 = 9 ∨ s12 = 10 → cmThi s12 b = b.v0max)

/-- R163, R165: over ℝ, without the final clamp, ThirdHarmonicInjectionPWM holds one phase at a rail, crossed bounds
or not: the smallest duty is 0 where V0min is selected and the largest is 1 where V0max is. -/
def Obligations.ThirdHarmonicHoldsOnePhase : Prop :=
  ∀ (c : Config) (n : Nat) (ua ub : ℝ), c.clampDuty = false →
    let m := modulation realArith c .thipwm n ua ub
    (thiIndex m.sectors.s12 % 2 = 0 → min m.duty.a (min m.duty.b m.duty.c) = 0) ∧
    (thiIndex m.sectors.s12 % 2 = 1 → max m.duty.a (max m.duty.b m.duty.c) = 1)

/-- R164: over ℝ, between the two sectors of a pair every ThirdHarmonicInjectionPWM duty jumps by V0max − V0min. -/
def Obligations.ThirdHarmonicJump : Prop :=
  ∀ (d : Coeff ℝ) (k : Fin 6) (even odd : Fin 12), pairOf even = k → pairOf odd = k → even.val % 2 = 0 →
    odd.val % 2 = 1 →
    let b := cmBounds realArith d
    let u := dutyAssign realArith k d (cmThi even b)
    let v := dutyAssign realArith k d (cmThi odd b)
    |v.a - u.a| = |1 - (d.d1 + d.d2)| ∧ |v.b - u.b| = |1 - (d.d1 + d.d2)| ∧ |v.c - u.c| = |1 - (d.d1 + d.d2)|

/-! ## Exact arithmetic and the reals -/

/-- R7, R61, log 4: however the free reals lie, a command in `REAL` computes what the same stages compute over ℝ on the real
numbers its operands stand for; any real numbers can be the free reals; and each of them can be an operand. -/
def Obligations.ExactArithmeticRefinesReals : Prop :=
  (∀ (o : RealOrder) (v : Nat → ℝ), o.Represents v → ∀ (c : Config) (mode : Mode) (n : Nat) (ua ub : Exact),
    (modulation (exactArithOf o) c mode n ua ub).map (exactValue v) =
      modulation realArith c mode n (exactValue v ua) (exactValue v ub)) ∧
  (∀ v : Nat → ℝ, (∃ o : RealOrder, o.Represents v) ∧
    ∀ n, exactValue v (exactFree n) = v n ∧ NumFormat.real.holds (.real (exactFree n)) = true) ∧
  exactArith = exactArithOf machineOrder

/-! ## The commands (44) -/

/-- R173: `IDLE` completes in every state, and every register keeps its value; `done_o` shows 0. The model's own
fields (log 1, 5, 7) stay too. -/
def Obligations.IdleKeepsEverything : Prop :=
  ∀ s : State, ∃ t, exec .idle s = .next t ∧ SameRegisters s t ∧ SameSurroundings s t ∧ t.draws = s.draws ∧
    t.doneO = false

/-- R171, R172, R176, R179: a `MODULATE` command whose operands the ports can carry and the input check lets through
completes, in either mode, every state and every configuration: it stores its operands bit for bit and a valid sector
code, sets `RESULT_VALID`, clears `LAST_ERR` and shows `done_o = 1`; the configuration, the command in flight and the
host's steps (the model's own, log 1, 5) stay. -/
def Obligations.ModulateCompletes : Prop :=
  ∀ (s : State) (ua ub : PortNum), s.cfg.numFormat.holds ua = true → s.cfg.numFormat.holds ub = true →
    Accepted s.cfg ua ub → ∀ i, i = Instr.modulateSvpwm ua ub ∨ i = Instr.modulateThipwm ua ub →
    ∃ t, exec i s = .next t ∧ t.lastUa = ua ∧ t.lastUb = ub ∧
      sectorCodeValid s.cfg.sectorScheme t.lastSector ∧ s.cfg.numFormat.holds t.lastMa = true ∧
      s.cfg.numFormat.holds t.lastMb = true ∧ s.cfg.numFormat.holds t.lastMc = true ∧
      t.resultValid = true ∧ t.err = false ∧ t.doneO = true ∧ SameSurroundings s t

/-- R171, R174: the registers `MODULATE.SVPWM` leaves. -/
def Obligations.SvpwmDefinedResult : Prop := DefinedResult .svpwm .modulateSvpwm

/-- R172, R174: the registers `MODULATE.THIPWM` leaves. -/
def Obligations.ThipwmDefinedResult : Prop := DefinedResult .thipwm .modulateThipwm

/-- R178, 90_conflicts C6: a command the input check lets through completes in either mode, its operands stored bit for bit.
With an operand that is not finite, or a projection, bound, common mode or duty that is not, the sector is a draw and each
duty is a draw. Nothing is known of a draw but its range; that each is a free value of its own, by a counter, is the model's
(log 7). -/
def Obligations.NonfiniteCommandDraws : Prop :=
  ∀ (s : State) (α : Type) (A : Arith α) (toNum : α → PortNum), InFormat s.cfg A toNum → ∀ (ua ub : α) (mode : Mode),
    Accepted s.cfg (toNum ua) (toNum ub) →
    (A.finite ua && A.finite ub) = false ∨
      ¬ FinitePath A s.cfg mode (classifyTree A (project A ua ub)).s12 ua ub →
    ∃ t, exec (modulateInstr mode (toNum ua) (toNum ub)) s = .next t ∧ t.lastUa = toNum ua ∧ t.lastUb = toNum ub ∧
      t.lastSector = sectorCode s.cfg.sectorScheme
        { s6 := pairOf (Config.drawSector s.draws), s12 := Config.drawSector s.draws } ∧
      t.lastMa = toNum (A.draw (s.draws + 1)) ∧ t.lastMb = toNum (A.draw (s.draws + 2)) ∧
      t.lastMc = toNum (A.draw (s.draws + 3)) ∧ t.resultValid = true ∧ t.err = false ∧ t.doneO = true ∧
      t.draws = s.draws + 4 ∧ SameSurroundings s t

/-- R201, R203: with the check, a command with an operand that is not finite sets `LAST_ERR`, shows `done_o = 1` and
leaves everything else as it was, in either mode. -/
def Obligations.InvalidInputOnlySetsError : Prop :=
  ∀ (s : State) (ua ub : PortNum), s.cfg.numFormat.holds ua = true → s.cfg.numFormat.holds ub = true →
    s.cfg.inputCheck = true → (numFinite ua && numFinite ub) = false →
    ∀ i, i = Instr.modulateSvpwm ua ub ∨ i = Instr.modulateThipwm ua ub →
    exec i s = .next { s with lastErr := true, doneO := true }

/-- R181, R166 and 95_test_vectors S2: in every number format with the default constant the zero command leaves sector 11,
or 5 under `SIX`, in both modes, and 50 % duties in SpaceVectorPWM mode and 0 % duties in ThirdHarmonicInjectionPWM mode. -/
def Obligations.ZeroCommandDuties : Prop :=
  ∀ s : State, let code : BitVec 4 := match s.cfg.sectorScheme with | .twelve => 11#4 | .six => 5#4
    (s.cfg.numFormat = .binary64 sqrt3Binary64 →
      let zero := PortNum.b64 0#64
      let half := PortNum.b64 0x3FE0000000000000#64
      LeavesResult s (.modulateSvpwm zero zero) code half half half ∧
      LeavesResult s (.modulateThipwm zero zero) code zero zero zero) ∧
    (s.cfg.numFormat = .binary32 sqrt3Binary32 →
      let zero := PortNum.b32 0#32
      let half := PortNum.b32 0x3F000000#32
      LeavesResult s (.modulateSvpwm zero zero) code half half half ∧
      LeavesResult s (.modulateThipwm zero zero) code zero zero zero) ∧
    (s.cfg.numFormat = .real →
      let zero := PortNum.real (exactOfRat 0)
      let half := PortNum.real (exactOfRat (1 / 2))
      LeavesResult s (.modulateSvpwm zero zero) code half half half ∧
      LeavesResult s (.modulateThipwm zero zero) code zero zero zero)

/-- R149 and 95_test_vectors S1: the source's first scenario, ua = 1 and ub = 0, in binary64. -/
def Obligations.SourceScenarioOne : Prop :=
  ∀ s : State, s.cfg = Config.default →
    ∃ t, exec (.modulateSvpwm (.b64 0x3FF0000000000000#64) (.b64 0#64)) s = .next t ∧ t.lastSector = 11#4 ∧
      t.lastMa = .b64 0x3FEDDB3D742C2655#64 ∧ t.lastMb = .b64 0x3FB126145E9ECD58#64 ∧
      t.lastMc = .b64 0x3FB126145E9ECD58#64

/-- R46, R180 (a free value is counted in `draws`, log 7): the registers a command leaves depend on its mode, its
operands and the configuration alone: two states of one configuration, whatever came before, are left with the same
registers when no free value was taken. -/
def Obligations.ResultIgnoresHistory : Prop :=
  ∀ (s s' t t' : State) (mode : Mode) (ua ub : PortNum), s.cfg = s'.cfg → Accepted s.cfg ua ub →
    exec (modulateInstr mode ua ub) s = .next t → exec (modulateInstr mode ua ub) s' = .next t' → t.draws = s.draws →
    SameRegisters t t'

/-- R118: the reported sector is s12 under `TWELVE` and s6 under `SIX`, where a command whose values stay finite has the
classifier's indices; and apart from the reported sector (and the parameter itself) the two schemes leave the same state:
the same operands, duties, status bits and everything else. R84, R85: the code is the index as a binary number. Where the
command is drawn (R178) the two runs agree only because the model's draw is a function of the counter `draws` (log 7): by
R180 two such commands each take their own draws and need not agree. -/
def Obligations.SchemeOnlyChangesReport : Prop :=
  (∀ k : Sectors, (sectorCode .twelve k).toNat = k.s12.val ∧ (sectorCode .six k).toNat = k.s6.val) ∧
  ∀ (s : State) (α : Type) (A : Arith α) (toNum : α → PortNum), InFormat s.cfg A toNum → ∀ (ua ub : α) (mode : Mode),
    Accepted s.cfg (toNum ua) (toNum ub) →
    let k := classifyTree A (project A ua ub)
    ∃ t12 t6,
      exec (modulateInstr mode (toNum ua) (toNum ub)) { s with cfg := { s.cfg with sectorScheme := .twelve } } = .next t12 ∧
      exec (modulateInstr mode (toNum ua) (toNum ub)) { s with cfg := { s.cfg with sectorScheme := .six } } = .next t6 ∧
      (FinitePath A s.cfg mode k.s12 ua ub →
        t12.lastSector.toNat = k.s12.val ∧ t6.lastSector.toNat = k.s6.val) ∧
      t12.lastSector.toNat < 12 ∧ t6.lastSector.toNat = t12.lastSector.toNat / 2 ∧
      { t6 with cfg := t12.cfg, lastSector := t12.lastSector } = t12

/-- R165: `CM_CROSSED_RESULT` changes nothing in ThirdHarmonicInjectionPWM mode. Where the command is drawn (R178) the two
runs agree only because the model's draw is a function of the counter `draws` (log 7): by R180 two such commands each take
their own draws and need not agree. -/
def Obligations.ThipwmIgnoresCrossedResult : Prop :=
  ∀ (s t t' : State) (ua ub : PortNum) (crossed : CmCrossed), exec (.modulateThipwm ua ub) s = .next t →
    exec (.modulateThipwm ua ub) { s with cfg := { s.cfg with cmCrossed := crossed } } = .next t' → SameRegisters t t'

/-- R140: with `CLAMP_DUTY = 1` the duties of a command that took no free value lie in [0, 1], in every number format.
-/
def Obligations.ClampedDutiesInUnit : Prop :=
  ∀ (s t : State) (mode : Mode) (ua ub : PortNum), Accepted s.cfg ua ub → s.cfg.clampDuty = true →
    exec (modulateInstr mode ua ub) s = .next t → t.draws = s.draws →
    NumInUnit t.lastMa ∧ NumInUnit t.lastMb ∧ NumInUnit t.lastMc

/-- R179, R82, log 14: a command never faults, and is refused only for an operand that no port of the instance could
carry. -/
def Obligations.CommandsDoNotStop : Prop :=
  ∀ (i : Instr) (s : State), (∀ r, exec i s ≠ .fault r) ∧
    ∀ r, exec i s = .refused r ↔ r = .operandFormat ∧ i.wf s.cfg.numFormat = false

/-! ## Steps, reset and the host (10_state, 60, 70) -/

/-- R170, R224 (the host's steps and the placing of a word are the model's, log 5, 15): with no reset, no faulting
sample and no command in flight, the step is the presented command's, on the state whose host has moved on, unless the
command needs more than one cycle; and a placed word is run so. -/
def Obligations.StepRunsDecoded : Prop :=
  (∀ s : State, s.readsFault s.presented.reads = false → s.presented.rst = false → s.inFlight = none →
    (cmdStart s.presented.words.cmd = false ∨ s.cfg.latency ≤ 1) →
    step s = exec (decodeWords s.presented.words) s.hostAdvance) ∧
  (∀ (s : State) (nbits w : Nat), s.cfg.latency ≤ 1 →
    step (s.withFetchWord nbits w) =
      exec (decodeWords (tableWords s.cfg.numFormat (w % 2 ^ nbits))) { s with inFlight := none, host := s.host.tail })

/-- R220, R221: a step with `rst = 1` discards the command presented and the one in flight, clears both status bits
and `done_o`, leaves no result register with a value (every sample of one faults) and keeps the configuration. -/
def Obligations.ResetStep : Prop :=
  ∀ s : State, s.readsFault s.presented.reads = false → s.presented.rst = true →
    ∃ t, step s = .next t ∧ t.resultValid = false ∧ t.err = false ∧ t.lastErr = false ∧ t.doneO = false ∧
      t.inFlight = none ∧ t.cfg = s.cfg ∧ t.host = s.host.tail ∧
      ∀ p, portIsResult p = true → t.readPort p = .error .readUnwritten

/-- R222: after reset `valid_o` and `err_o` are 0, a sample of a result port is `READ_UNWRITTEN`, an idle step changes
nothing, and the first command that completes normally sets `RESULT_VALID`. -/
def Obligations.AfterReset : Prop :=
  ∀ (c : Config) (hosts : List HostStep), let s := State.resetOf c hosts
    s.readPort .valid = .ok (.bit false) ∧ s.readPort .err = .ok (.bit false) ∧
    (∀ p, portIsResult p = true → s.readPort p = .error .readUnwritten) ∧
    exec .idle s = .next s ∧
    (∀ (ua ub : PortNum) (mode : Mode), c.numFormat.holds ua = true → c.numFormat.holds ub = true → Accepted c ua ub →
      ∃ t, exec (modulateInstr mode ua ub) s = .next t ∧ t.resultValid = true ∧ ∀ p, ∃ v, t.readPort p = .ok v)

/-- R206, R224, R226: exactly when a step faults, and with which reason. An operand port has changed when it shows another
value: another bit pattern, or in `REAL` another real number (R61, log 4). The model's reading: the order of the causes
(log 10); operands held through the completing step (log 11); samples see the registers before the step, so one in the very
step that first sets `RESULT_VALID` faults (log 8), and one in a reset step too (log 21); `valid_o`, `err_o` and `done_o` are
always readable (log 9). -/
def Obligations.FaultCauses : Prop :=
  ∀ (s : State) (r : Fault), step s = .fault r ↔
    (r = .readUnwritten ∧ s.resultValid = false ∧ ∃ p ∈ s.presented.reads, portIsResult p = true) ∨
    ((s.resultValid = true ∨ ∀ p ∈ s.presented.reads, portIsResult p = false) ∧ s.presented.rst = false ∧
      ∃ c, s.inFlight = some c ∧
        ((r = .startWhileBusy ∧ cmdStart s.presented.words.cmd = true) ∨
         (r = .operandsChanged ∧ cmdStart s.presented.words.cmd = false ∧
          (cmdMode s.presented.words.cmd ≠ c.mode ∨ NumChanged c.ua s.presented.words.ua ∨
            NumChanged c.ub s.presented.words.ub))))

/-- R44, R45 (and log 6 for `done_o`): once `RESULT_VALID = 1`, each output port shows its register. -/
def Obligations.PortsShowRegisters : Prop :=
  ∀ s : State, s.resultValid = true →
    s.readPort .ma = .ok (.num s.lastMa) ∧ s.readPort .mb = .ok (.num s.lastMb) ∧
    s.readPort .mc = .ok (.num s.lastMc) ∧ s.readPort .sector = .ok (.sector s.lastSector) ∧
    s.readPort .ua = .ok (.num s.lastUa) ∧ s.readPort .ub = .ok (.num s.lastUb) ∧
    s.readPort .valid = .ok (.bit true) ∧ s.readPort .err = .ok (.bit s.err) ∧ s.readPort .done = .ok (.bit s.doneO)

/-- R64, R177: sampling ports that hold values changes nothing: the step is that of the same host step without
samples. That a drawn command (R178) takes the same draws in both is the model's (log 7). -/
def Obligations.ReadingHasNoEffect : Prop :=
  ∀ (s : State) (h : HostStep) (rest : List HostStep), s.readsFault h.reads = false →
    step { s with host := h :: rest } = step { s with host := { h with reads := [] } :: rest }

/-- R224, R226 (one step a cycle, the host's steps a list: log 5, 20): with `LATENCY = n + 1`, a command accepted now
whose operands the host holds for n steps, whatever readable ports it samples, completes in the (n + 1)-th step, with the
effect it has in one step, on the state whose host has moved on. In `REAL` holding an operand is showing the same real
number (R61, log 4). That a drawn command (R178) takes the same draws in the clocked run as in the one step is the model's
(log 7). -/
def Obligations.ClockedCommandCompletes : Prop :=
  ∀ (s : State) (h : HostStep) (held rest : List HostStep) (n : Nat), s.inFlight = none → s.cfg.latency = n + 1 →
    h.rst = false → s.readsFault h.reads = false → cmdStart h.words.cmd = true → h.words.wf s.cfg.numFormat = true →
    held.length = n →
    (∀ g ∈ held, g.rst = false ∧ s.readsFault g.reads = false ∧
      InFlight.HeldBy { mode := cmdMode h.words.cmd, ua := h.words.ua, ub := h.words.ub, left := n } g.words) →
    s.host = h :: (held ++ rest) →
    Host.Core.run Sys2Proof.core (n + 1) s = exec (decodeWords h.words) { s with host := rest }

/-- R176: a step without reset in which `done_o` shows 0 leaves every register as it was. One in which it shows 1
completed one command, the one in flight or else the one presented: it either set `LAST_ERR` and changed no other
register, or wrote all of its results together, those its `modulate` leaves on the registers as they were. -/
def Obligations.RegistersChangeTogether : Prop :=
  ∀ s t : State, step s = .next t → s.presented.rst = false →
    (t.doneO = false → SameRegisters s t) ∧
    (t.doneO = true → ∃ (mode : Mode) (ua ub : PortNum),
      ((s.inFlight = none ∧ decodeWords s.presented.words = modulateInstr mode ua ub) ∨
       (∃ left, s.inFlight = some { mode := mode, ua := ua, ub := ub, left := left })) ∧
      modulate mode ua ub { s with host := s.host.tail, inFlight := none } = .next t ∧
      ((t.err = true ∧ SameRegisters s { t with lastErr := s.lastErr }) ∨
       (t.err = false ∧ t.resultValid = true ∧ t.lastUa = ua ∧ t.lastUb = ub)))

/-- R39: reset clears `RESULT_VALID`, a command that updates the state sets it, and nothing else changes it. -/
def Obligations.ResultValidRule : Prop :=
  ∀ s t : State, step s = .next t →
    (s.presented.rst = true → t.resultValid = false) ∧
    (s.presented.rst = false → t.doneO = true → t.err = false → t.resultValid = true) ∧
    (s.presented.rst = false → s.resultValid = true → t.resultValid = true) ∧
    (s.presented.rst = false → t.doneO = false ∨ t.err = true → t.resultValid = s.resultValid)

/-- R40: reset clears `LAST_ERR`; with the check a rejected command sets it and an accepted one clears it; without the
check it reads 0 in every state and no command writes it. -/
def Obligations.LastErrRule : Prop :=
  ∀ s t : State, step s = .next t →
    (s.presented.rst = true → t.lastErr = false) ∧
    (s.cfg.inputCheck = false → s.err = false ∧ (s.presented.rst = false → t.lastErr = s.lastErr)) ∧
    (s.cfg.inputCheck = true → s.presented.rst = false → t.doneO = false → t.err = s.err) ∧
    (s.cfg.inputCheck = true → s.presented.rst = false → s.inFlight = none → t.doneO = true →
      t.err = !(numFinite s.presented.words.ua && numFinite s.presented.words.ub)) ∧
    (∀ c, s.inFlight = some c → s.cfg.inputCheck = true → s.presented.rst = false → t.doneO = true →
      t.err = !(numFinite c.ua && numFinite c.ub))

/-- R6, R42, R221: no step changes the configuration, which State holds (log 1). -/
def Obligations.ConfigurationIsFixed : Prop :=
  ∀ s t : State, step s = .next t → t.cfg = s.cfg

/-- R223, R224, R226 (log 10, 11): a host that keeps to the protocol is never stopped. -/
def Obligations.ObedientHostNeverStops : Prop :=
  ∀ s : State, s.Inv → s.HostObeys → ∃ t, step s = .next t

/-- R6, R33 to R38, R40, R84, R85, R224: every step keeps the invariant, from any state that meets it. -/
def Obligations.StepKeepsInvariant : Prop :=
  ∀ s t : State, s.Inv → step s = .next t → t.Inv

/-- R47, R221: the state after reset meets the invariant, in every legal configuration; `State.reset` is one of them.
-/
def Obligations.ResetMeetsInvariant : Prop :=
  (∀ (c : Config) (hosts : List HostStep), c.wf = true → (State.resetOf c hosts).Inv) ∧ State.reset.Inv
end

