-- ==== Sys2Proof/Laws/Decode.lean ====
section
/-! SUPPORT. The fields of a command word, and what the decoder makes of one. -/

namespace Sys2Proof

@[simp] theorem cmdStart_cmdOf (start : Bool) (mode : Mode) : cmdStart (cmdOf start mode) = start := by
  cases start <;> cases mode <;> decide

@[simp] theorem cmdMode_cmdOf (start : Bool) (mode : Mode) : cmdMode (cmdOf start mode) = mode := by
  cases start <;> cases mode <;> decide

/-- A command word is its two fields. -/
theorem cmdOf_fields (cmd : BitVec 2) : cmdOf (cmdStart cmd) (cmdMode cmd) = cmd := by
  revert cmd; decide

@[simp] theorem decodeWords_start (mode : Mode) (ua ub : PortNum) :
    decodeWords { cmd := cmdOf true mode, ua := ua, ub := ub } = modulateInstr mode ua ub := by
  simp [decodeWords]

@[simp] theorem decodeWords_idle (mode : Mode) (ua ub : PortNum) :
    decodeWords { cmd := cmdOf false mode, ua := ua, ub := ub } = .idle := by
  simp [decodeWords]

/-- The word of a command of a number: its value, for arithmetic on frames. -/
theorem cmdOf_toNat (start : Bool) (mode : Mode) :
    (cmdOf start mode).toNat = (if start then 2 else 0) + (match mode with | .svpwm => 0 | .thipwm => 1) := by
  cases start <;> cases mode <;> decide

theorem modulateInstr_ne_idle (mode : Mode) (ua ub : PortNum) : modulateInstr mode ua ub ≠ .idle := by
  cases mode <;> simp [modulateInstr]

theorem modulateInstr_inj {m m' : Mode} {a a' b b' : PortNum} (h : modulateInstr m a b = modulateInstr m' a' b') :
    m = m' ∧ a = a' ∧ b = b' := by
  cases m <;> cases m' <;> simp_all [modulateInstr]

/-- A pattern of the instance's width is a number of its format. -/
theorem holds_numOfBits (f : NumFormat) (n : Nat) : f.holds (numOfBits f n) = true := by
  cases f <;> rfl

end Sys2Proof
end

