-- ==== Sys2Proof/Laws/Exact.lean ====
section
/-!
SUPPORT. The exact numbers as real numbers: each operation of `exactArithOf o` is that of `realArith` on the real numbers
that `o` represents (00_scope R7).
-/

namespace Sys2Proof.Machine

/-! ## Coefficients -/

theorem sqrt3_sq : Real.sqrt 3 * Real.sqrt 3 = 3 := Real.mul_self_sqrt (by norm_num)

@[simp] theorem surdValue_ofRat (q : Rat) : surdValue (surdOfRat q) = (q : ℝ) := by simp [surdValue, surdOfRat]

@[simp] theorem surdValue_sqrt3 : surdValue surdSqrt3 = Real.sqrt 3 := by simp [surdValue, surdSqrt3]

@[simp] theorem surdValue_add (x y : Surd) : surdValue (surdAdd x y) = surdValue x + surdValue y := by
  simp only [surdValue, surdAdd, Rat.cast_add]; ring

@[simp] theorem surdValue_mul (x y : Surd) : surdValue (surdMul x y) = surdValue x * surdValue y := by
  simp only [surdValue, surdMul, Rat.cast_add, Rat.cast_mul, Rat.cast_ofNat]
  linear_combination (-(x.root : ℝ) * y.root) * sqrt3_sq

/-! ## Terms -/

variable (v : Nat → ℝ)

@[simp] theorem termsValue_consTerm (c : Surd) (cs : List Surd) (n : Nat) :
    termsValue v (consTerm c cs) n = surdValue c * v n + termsValue v cs (n + 1) := by
  unfold consTerm
  split
  · rename_i h
    simp [h.1, h.2, termsValue]
  · rfl

@[simp] theorem termsValue_addTerms (xs ys : List Surd) (n : Nat) :
    termsValue v (addTerms xs ys) n = termsValue v xs n + termsValue v ys n := by
  induction xs generalizing ys n with
  | nil => simp [addTerms, termsValue]
  | cons x xs ih =>
    cases ys with
    | nil => simp [addTerms, termsValue]
    | cons y ys => simp only [addTerms, termsValue_consTerm, surdValue_add, ih, termsValue]; ring

@[simp] theorem termsValue_scaleTerms (c : Surd) (xs : List Surd) (n : Nat) :
    termsValue v (scaleTerms c xs) n = surdValue c * termsValue v xs n := by
  induction xs generalizing n with
  | nil => simp [scaleTerms, termsValue]
  | cons x xs ih => simp only [scaleTerms, termsValue_consTerm, surdValue_mul, ih, termsValue]; ring

theorem termsValue_of_zero {cs : List Surd} (h : ∀ c ∈ cs, c = surdOfRat 0) (n : Nat := 0) : termsValue v cs n = 0 := by
  induction cs generalizing n with
  | nil => rfl
  | cons c cs ih =>
    rw [termsValue, h c List.mem_cons_self, ih fun d hd => h d (List.mem_cons_of_mem c hd)]
    simp

theorem termsValue_replicate_zero (k : Nat) (cs : List Surd) (n : Nat) :
    termsValue v (List.replicate k (surdOfRat 0) ++ cs) n = termsValue v cs (n + k) := by
  induction k generalizing n with
  | zero => simp
  | succ k ih =>
    simp only [List.replicate_succ, List.cons_append, termsValue, ih, surdValue_ofRat, Rat.cast_zero, zero_mul, zero_add]
    congr 1; omega

/-! ## Exact numbers -/

@[simp] theorem exactValue_ofRat (q : Rat) : exactValue v (exactOfRat q) = (q : ℝ) := by
  simp [exactValue, exactOfRat, termsValue]

@[simp] theorem exactValue_add (x y : Exact) : exactValue v (exactAdd x y) = exactValue v x + exactValue v y := by
  simp only [exactValue, exactAdd, surdValue_add, termsValue_addTerms]; ring

@[simp] theorem exactValue_scale (c : Surd) (x : Exact) :
    exactValue v (exactScale c x) = surdValue c * exactValue v x := by
  simp only [exactValue, exactScale, surdValue_mul, termsValue_scaleTerms]; ring

@[simp] theorem exactValue_neg (x : Exact) : exactValue v (exactNeg x) = -exactValue v x := by simp [exactNeg]

@[simp] theorem exactValue_sub (x y : Exact) : exactValue v (exactSub x y) = exactValue v x - exactValue v y := by
  rw [exactSub, exactValue_add, exactValue_neg, sub_eq_add_neg]

/-! ## The order -/

variable {o : RealOrder} {v}

/-- The sign test of the exact numbers is that of the reals. -/
theorem exactPos_iff (h : o.Represents v) (x : Exact) : exactPos o x = true ↔ 0 < exactValue v x := by
  unfold exactPos
  split
  · rename_i hx
    rw [surdPos_iff, exactValue, termsValue_of_zero v hx, add_zero]
  · exact h x

/-- The comparison of the exact numbers is that of the reals. -/
theorem exactLt_iff (h : o.Represents v) (x y : Exact) : exactLt o x y = true ↔ exactValue v x < exactValue v y := by
  rw [exactLt, exactPos_iff h, exactValue_sub, sub_pos]

/-- Two exact numbers are the same exactly when they stand for the same real number. -/
theorem exactSame_iff (h : o.Represents v) (x y : Exact) :
    exactSame o x y = true ↔ exactValue v x = exactValue v y := by
  simp only [exactSame, Bool.and_eq_true, Bool.not_eq_true', Bool.eq_false_iff, ne_eq, exactLt_iff h, not_lt]
  exact ⟨fun hxy => le_antisymm hxy.2 hxy.1, fun hxy => ⟨hxy.ge, hxy.le⟩⟩

/-- A port shows the same value exactly when it has not changed. -/
theorem sameNum_iff (x y : PortNum) : sameNum x y = true ↔ ¬ NumChanged x y := by
  cases x <;> cases y <;> simp only [sameNum, NumChanged]
  case real.real x y =>
    obtain ⟨v, hv⟩ := machineOrder.from_real
    rw [exactSame_iff hv]
    constructor
    · exact fun hxy hc => hc v hv hxy
    · intro hc
      by_contra hne
      exact hc fun v' hv' hxy => hne ((exactSame_iff hv x y).mp ((exactSame_iff hv' x y).mpr hxy))
  all_goals simp [eq_comm]

theorem exactArithOf_lt (h : o.Represents v) (x y : Exact) :
    (exactArithOf o).lt x y = realArith.lt (exactValue v x) (exactValue v y) := by
  rw [Bool.eq_iff_iff]
  exact (exactLt_iff h x y).trans (by simp [realArith])

end Sys2Proof.Machine
end

