-- ==== Sys2Proof/Laws/Ieee.lean ====
section
/-!
SUPPORT. The binary formats: the literals, negation, finiteness and the ordered comparison, said once.
-/

namespace Sys2Proof.Machine

/-! ## Magnitudes -/

theorem scaledRat_nonneg (m : Nat) (e : Int) : 0 ≤ scaledRat m e := by
  cases e <;> simp only [scaledRat, Rat.mkRat_eq_div] <;> positivity

/-- `scaledRat m e` is `m · 2^e`. -/
theorem scaledRat_eq (m : Nat) (e : Int) : scaledRat m e = m * (2 : ℚ) ^ e := by
  cases e with
  | ofNat k => simp [scaledRat, Rat.mkRat_eq_div]
  | negSucc k => simp [scaledRat, Rat.mkRat_eq_div, zpow_negSucc, div_eq_mul_inv]

theorem fieldMagnitude_nonneg (L : IeeeLayout) (e frac : Nat) : 0 ≤ fieldMagnitude L e frac := by
  unfold fieldMagnitude
  split <;> exact scaledRat_nonneg _ _

/-! ## Finiteness -/

theorem ieeeFinite_eq_true_iff (L : IeeeLayout) {w : Nat} (x : BitVec w) :
    ieeeFinite L x = true ↔
      ieeeValue L x = .finite (signField L x) (fieldMagnitude L (expField L x) (fracField L x)) := by
  unfold ieeeFinite ieeeValue
  by_cases h : expField L x = 2 ^ L.expBits - 1
  · simp only [h, ne_eq, not_true_eq_false, decide_false, if_true, Bool.false_eq_true, false_iff]
    split <;> simp
  · simp [h]

theorem ieeeFinite_of_value {L : IeeeLayout} {w : Nat} {x : BitVec w} {s : Bool} {m : Rat}
    (h : ieeeValue L x = .finite s m) : ieeeFinite L x = true ∧ 0 ≤ m := by
  by_cases hf : ieeeFinite L x = true
  · rw [(ieeeFinite_eq_true_iff L x).mp hf, IeeeValue.finite.injEq] at h
    exact ⟨hf, h.2 ▸ fieldMagnitude_nonneg _ _ _⟩
  · have he : expField L x = 2 ^ L.expBits - 1 := by simpa [ieeeFinite] using hf
    simp only [ieeeValue, he, if_true] at h
    split at h <;> cases h

/-! ## Negation -/

theorem expField_neg (L : IeeeLayout) {w : Nat} (hw : w = 1 + L.expBits + L.fracBits) (x : BitVec w) :
    expField L (ieeeNeg L x) = expField L x := by
  have h2 : 2 ^ (L.expBits + L.fracBits) < 2 ^ w := Nat.pow_lt_pow_right (by norm_num) (by omega)
  simp only [expField, ieeeNeg, BitVec.toNat_xor, BitVec.toNat_ofNat, Nat.mod_eq_of_lt h2]
  rw [← Nat.shiftRight_eq_div_pow, ← Nat.shiftRight_eq_div_pow, Nat.shiftRight_xor_distrib, Nat.xor_mod_two_pow,
    Nat.shiftRight_eq_div_pow (2 ^ _), Nat.pow_add, Nat.mul_div_cancel _ (by positivity), Nat.mod_self, Nat.xor_zero]

theorem fracField_neg (L : IeeeLayout) {w : Nat} (hw : w = 1 + L.expBits + L.fracBits) (x : BitVec w) :
    fracField L (ieeeNeg L x) = fracField L x := by
  have h2 : 2 ^ (L.expBits + L.fracBits) < 2 ^ w := Nat.pow_lt_pow_right (by norm_num) (by omega)
  simp only [fracField, ieeeNeg, BitVec.toNat_xor, BitVec.toNat_ofNat, Nat.mod_eq_of_lt h2]
  rw [Nat.xor_mod_two_pow, Nat.pow_add, Nat.mul_mod_left, Nat.xor_zero]

theorem signField_neg (L : IeeeLayout) {w : Nat} (hw : w = 1 + L.expBits + L.fracBits) (x : BitVec w) :
    signField L (ieeeNeg L x) = !signField L x := by
  have h2 : 2 ^ (L.expBits + L.fracBits) < 2 ^ w := Nat.pow_lt_pow_right (by norm_num) (by omega)
  simp only [signField, ieeeNeg, BitVec.toNat_xor, BitVec.toNat_ofNat, Nat.mod_eq_of_lt h2]
  rw [← Nat.shiftRight_eq_div_pow, ← Nat.shiftRight_eq_div_pow, Nat.shiftRight_xor_distrib,
    Nat.shiftRight_eq_div_pow (2 ^ _), Nat.div_self (by positivity)]
  generalize x.toNat >>> (L.expBits + L.fracBits) = n
  have hx : (n ^^^ 1) % 2 = (n % 2) ^^^ (1 % 2) := Nat.xor_mod_two_pow (n := 1)
  rw [hx]
  rcases Nat.mod_two_eq_zero_or_one n with h | h <;> rw [h] <;> rfl

/-- Negation changes the sign of the value and nothing else. -/
theorem ieeeValue_neg (L : IeeeLayout) {w : Nat} (hw : w = 1 + L.expBits + L.fracBits) (x : BitVec w) :
    ieeeValue L (ieeeNeg L x) =
      match ieeeValue L x with
      | .nan => .nan
      | .inf s => .inf (!s)
      | .finite s m => .finite (!s) m := by
  unfold ieeeValue
  rw [expField_neg L hw, fracField_neg L hw, signField_neg L hw]
  by_cases h1 : expField L x = 2 ^ L.expBits - 1
  · by_cases h2 : fracField L x = 0 <;> simp only [h1, h2, if_true, if_false]
  · simp only [h1, if_false]

theorem ieeeFinite_neg (L : IeeeLayout) {w : Nat} (hw : w = 1 + L.expBits + L.fracBits) (x : BitVec w) :
    ieeeFinite L (ieeeNeg L x) = ieeeFinite L x := by
  rw [ieeeFinite, ieeeFinite, expField_neg L hw]

theorem signedRat_not (s : Bool) (m : Rat) : signedRat (!s) m = -signedRat s m := by
  cases s <;> simp [signedRat]

/-- Negating both operands reverses the comparison. -/
theorem ieeeLt_neg_neg (L : IeeeLayout) {w : Nat} (hw : w = 1 + L.expBits + L.fracBits) (x y : BitVec w) :
    ieeeLt L (ieeeNeg L x) (ieeeNeg L y) = ieeeLt L y x := by
  unfold ieeeLt
  rw [ieeeValue_neg L hw, ieeeValue_neg L hw]
  cases ieeeValue L x <;> cases ieeeValue L y <;> simp [signedRat_not, Bool.and_comm]

/-! ## The comparison -/

/-- The comparison of finite values is that of their exact values. -/
theorem ieeeLt_finite {L : IeeeLayout} {w : Nat} {x y : BitVec w} {s t : Bool} {m n : Rat}
    (hx : ieeeValue L x = .finite s m) (hy : ieeeValue L y = .finite t n) :
    ieeeLt L x y = decide (signedRat s m < signedRat t n) := by
  simp [ieeeLt, hx, hy]

theorem ieeeLt_irrefl (L : IeeeLayout) {w : Nat} (x : BitVec w) : ieeeLt L x x = false := by
  unfold ieeeLt
  cases ieeeValue L x <;> simp

theorem ieeeLt_trans (L : IeeeLayout) {w : Nat} {x y z : BitVec w} (h1 : ieeeLt L x y = true)
    (h2 : ieeeLt L y z = true) : ieeeLt L x z = true := by
  unfold ieeeLt at *
  cases hx : ieeeValue L x <;> cases hy : ieeeValue L y <;> cases hz : ieeeValue L z <;> simp_all
  exact lt_trans h1 h2

/-! ## The literals -/

theorem arith32_zero (c : BitVec 32) : (arith32 c).zero = 0#32 := by
  change ieeeRound binary32Layout 32 false 0 = _; decide +kernel
theorem arith32_half (c : BitVec 32) : (arith32 c).half = 0x3F000000#32 := by
  change ieeeRound binary32Layout 32 false (mkRat 1 2) = _; decide +kernel
theorem arith32_one (c : BitVec 32) : (arith32 c).one = 0x3F800000#32 := by
  change ieeeRound binary32Layout 32 false 1 = _; decide +kernel
theorem round32_two : ieeeRound binary32Layout 32 false 2 = 0x40000000#32 := by decide +kernel
theorem round32_three : ieeeRound binary32Layout 32 false 3 = 0x40400000#32 := by decide +kernel
theorem round32_six : ieeeRound binary32Layout 32 false 6 = 0x40C00000#32 := by decide +kernel
theorem arith64_zero (c : BitVec 64) : (arith64 c).zero = 0#64 := by
  change ieeeRound binary64Layout 64 false 0 = _; decide +kernel
theorem arith64_half (c : BitVec 64) : (arith64 c).half = 0x3FE0000000000000#64 := by
  change ieeeRound binary64Layout 64 false (mkRat 1 2) = _; decide +kernel
theorem arith64_one (c : BitVec 64) : (arith64 c).one = 0x3FF0000000000000#64 := by
  change ieeeRound binary64Layout 64 false 1 = _; decide +kernel
theorem round64_two : ieeeRound binary64Layout 64 false 2 = 0x4000000000000000#64 := by decide +kernel
theorem round64_three : ieeeRound binary64Layout 64 false 3 = 0x4008000000000000#64 := by decide +kernel
theorem round64_six : ieeeRound binary64Layout 64 false 6 = 0x4018000000000000#64 := by decide +kernel

end Sys2Proof.Machine
end

