-- ==== Sys2Proof/Laws/State.lean ====
section
/-! SUPPORT. What each update does to each field of State, so that no proof unfolds a record update. -/

namespace Sys2Proof.Machine

variable (s : State)

/-! `State.setValid` -/

@[simp] theorem State.setValid_cfg :
    s.setValid.cfg = s.cfg := rfl
@[simp] theorem State.setValid_lastUa :
    s.setValid.lastUa = s.lastUa := rfl
@[simp] theorem State.setValid_lastUb :
    s.setValid.lastUb = s.lastUb := rfl
@[simp] theorem State.setValid_lastSector :
    s.setValid.lastSector = s.lastSector := rfl
@[simp] theorem State.setValid_lastMa :
    s.setValid.lastMa = s.lastMa := rfl
@[simp] theorem State.setValid_lastMb :
    s.setValid.lastMb = s.lastMb := rfl
@[simp] theorem State.setValid_lastMc :
    s.setValid.lastMc = s.lastMc := rfl
@[simp] theorem State.setValid_resultValid :
    s.setValid.resultValid = true := rfl
@[simp] theorem State.setValid_lastErr :
    s.setValid.lastErr = s.lastErr := rfl
@[simp] theorem State.setValid_doneO :
    s.setValid.doneO = s.doneO := rfl
@[simp] theorem State.setValid_inFlight :
    s.setValid.inFlight = s.inFlight := rfl
@[simp] theorem State.setValid_draws :
    s.setValid.draws = s.draws := rfl
@[simp] theorem State.setValid_host :
    s.setValid.host = s.host := rfl

/-! `State.writeErr` -/

@[simp] theorem State.writeErr_cfg (b : Bool) :
    (s.writeErr b).cfg = s.cfg := rfl
@[simp] theorem State.writeErr_lastUa (b : Bool) :
    (s.writeErr b).lastUa = s.lastUa := rfl
@[simp] theorem State.writeErr_lastUb (b : Bool) :
    (s.writeErr b).lastUb = s.lastUb := rfl
@[simp] theorem State.writeErr_lastSector (b : Bool) :
    (s.writeErr b).lastSector = s.lastSector := rfl
@[simp] theorem State.writeErr_lastMa (b : Bool) :
    (s.writeErr b).lastMa = s.lastMa := rfl
@[simp] theorem State.writeErr_lastMb (b : Bool) :
    (s.writeErr b).lastMb = s.lastMb := rfl
@[simp] theorem State.writeErr_lastMc (b : Bool) :
    (s.writeErr b).lastMc = s.lastMc := rfl
@[simp] theorem State.writeErr_resultValid (b : Bool) :
    (s.writeErr b).resultValid = s.resultValid := rfl
@[simp] theorem State.writeErr_lastErr (b : Bool) :
    (s.writeErr b).lastErr = (if s.cfg.inputCheck then b else s.lastErr) := rfl
@[simp] theorem State.writeErr_doneO (b : Bool) :
    (s.writeErr b).doneO = s.doneO := rfl
@[simp] theorem State.writeErr_inFlight (b : Bool) :
    (s.writeErr b).inFlight = s.inFlight := rfl
@[simp] theorem State.writeErr_draws (b : Bool) :
    (s.writeErr b).draws = s.draws := rfl
@[simp] theorem State.writeErr_host (b : Bool) :
    (s.writeErr b).host = s.host := rfl

/-! `State.setDone` -/

@[simp] theorem State.setDone_cfg (b : Bool) :
    (s.setDone b).cfg = s.cfg := rfl
@[simp] theorem State.setDone_lastUa (b : Bool) :
    (s.setDone b).lastUa = s.lastUa := rfl
@[simp] theorem State.setDone_lastUb (b : Bool) :
    (s.setDone b).lastUb = s.lastUb := rfl
@[simp] theorem State.setDone_lastSector (b : Bool) :
    (s.setDone b).lastSector = s.lastSector := rfl
@[simp] theorem State.setDone_lastMa (b : Bool) :
    (s.setDone b).lastMa = s.lastMa := rfl
@[simp] theorem State.setDone_lastMb (b : Bool) :
    (s.setDone b).lastMb = s.lastMb := rfl
@[simp] theorem State.setDone_lastMc (b : Bool) :
    (s.setDone b).lastMc = s.lastMc := rfl
@[simp] theorem State.setDone_resultValid (b : Bool) :
    (s.setDone b).resultValid = s.resultValid := rfl
@[simp] theorem State.setDone_lastErr (b : Bool) :
    (s.setDone b).lastErr = s.lastErr := rfl
@[simp] theorem State.setDone_doneO (b : Bool) :
    (s.setDone b).doneO = b := rfl
@[simp] theorem State.setDone_inFlight (b : Bool) :
    (s.setDone b).inFlight = s.inFlight := rfl
@[simp] theorem State.setDone_draws (b : Bool) :
    (s.setDone b).draws = s.draws := rfl
@[simp] theorem State.setDone_host (b : Bool) :
    (s.setDone b).host = s.host := rfl

/-! `State.setInFlight` -/

@[simp] theorem State.setInFlight_cfg (p : Option InFlight) :
    (s.setInFlight p).cfg = s.cfg := rfl
@[simp] theorem State.setInFlight_lastUa (p : Option InFlight) :
    (s.setInFlight p).lastUa = s.lastUa := rfl
@[simp] theorem State.setInFlight_lastUb (p : Option InFlight) :
    (s.setInFlight p).lastUb = s.lastUb := rfl
@[simp] theorem State.setInFlight_lastSector (p : Option InFlight) :
    (s.setInFlight p).lastSector = s.lastSector := rfl
@[simp] theorem State.setInFlight_lastMa (p : Option InFlight) :
    (s.setInFlight p).lastMa = s.lastMa := rfl
@[simp] theorem State.setInFlight_lastMb (p : Option InFlight) :
    (s.setInFlight p).lastMb = s.lastMb := rfl
@[simp] theorem State.setInFlight_lastMc (p : Option InFlight) :
    (s.setInFlight p).lastMc = s.lastMc := rfl
@[simp] theorem State.setInFlight_resultValid (p : Option InFlight) :
    (s.setInFlight p).resultValid = s.resultValid := rfl
@[simp] theorem State.setInFlight_lastErr (p : Option InFlight) :
    (s.setInFlight p).lastErr = s.lastErr := rfl
@[simp] theorem State.setInFlight_doneO (p : Option InFlight) :
    (s.setInFlight p).doneO = s.doneO := rfl
@[simp] theorem State.setInFlight_inFlight (p : Option InFlight) :
    (s.setInFlight p).inFlight = p := rfl
@[simp] theorem State.setInFlight_draws (p : Option InFlight) :
    (s.setInFlight p).draws = s.draws := rfl
@[simp] theorem State.setInFlight_host (p : Option InFlight) :
    (s.setInFlight p).host = s.host := rfl

/-! `State.hostAdvance` -/

@[simp] theorem State.hostAdvance_cfg :
    s.hostAdvance.cfg = s.cfg := rfl
@[simp] theorem State.hostAdvance_lastUa :
    s.hostAdvance.lastUa = s.lastUa := rfl
@[simp] theorem State.hostAdvance_lastUb :
    s.hostAdvance.lastUb = s.lastUb := rfl
@[simp] theorem State.hostAdvance_lastSector :
    s.hostAdvance.lastSector = s.lastSector := rfl
@[simp] theorem State.hostAdvance_lastMa :
    s.hostAdvance.lastMa = s.lastMa := rfl
@[simp] theorem State.hostAdvance_lastMb :
    s.hostAdvance.lastMb = s.lastMb := rfl
@[simp] theorem State.hostAdvance_lastMc :
    s.hostAdvance.lastMc = s.lastMc := rfl
@[simp] theorem State.hostAdvance_resultValid :
    s.hostAdvance.resultValid = s.resultValid := rfl
@[simp] theorem State.hostAdvance_lastErr :
    s.hostAdvance.lastErr = s.lastErr := rfl
@[simp] theorem State.hostAdvance_doneO :
    s.hostAdvance.doneO = s.doneO := rfl
@[simp] theorem State.hostAdvance_inFlight :
    s.hostAdvance.inFlight = s.inFlight := rfl
@[simp] theorem State.hostAdvance_draws :
    s.hostAdvance.draws = s.draws := rfl
@[simp] theorem State.hostAdvance_host :
    s.hostAdvance.host = s.host.tail := rfl

/-! `State.storeResults` -/

@[simp] theorem State.storeResults_cfg (ua ub : PortNum) (m : Modulation PortNum) :
    (s.storeResults ua ub m).cfg = s.cfg := rfl
@[simp] theorem State.storeResults_lastUa (ua ub : PortNum) (m : Modulation PortNum) :
    (s.storeResults ua ub m).lastUa = ua := rfl
@[simp] theorem State.storeResults_lastUb (ua ub : PortNum) (m : Modulation PortNum) :
    (s.storeResults ua ub m).lastUb = ub := rfl
@[simp] theorem State.storeResults_lastSector (ua ub : PortNum) (m : Modulation PortNum) :
    (s.storeResults ua ub m).lastSector = sectorCode s.cfg.sectorScheme m.sectors := rfl
@[simp] theorem State.storeResults_lastMa (ua ub : PortNum) (m : Modulation PortNum) :
    (s.storeResults ua ub m).lastMa = m.duty.a := rfl
@[simp] theorem State.storeResults_lastMb (ua ub : PortNum) (m : Modulation PortNum) :
    (s.storeResults ua ub m).lastMb = m.duty.b := rfl
@[simp] theorem State.storeResults_lastMc (ua ub : PortNum) (m : Modulation PortNum) :
    (s.storeResults ua ub m).lastMc = m.duty.c := rfl
@[simp] theorem State.storeResults_resultValid (ua ub : PortNum) (m : Modulation PortNum) :
    (s.storeResults ua ub m).resultValid = s.resultValid := rfl
@[simp] theorem State.storeResults_lastErr (ua ub : PortNum) (m : Modulation PortNum) :
    (s.storeResults ua ub m).lastErr = s.lastErr := rfl
@[simp] theorem State.storeResults_doneO (ua ub : PortNum) (m : Modulation PortNum) :
    (s.storeResults ua ub m).doneO = s.doneO := rfl
@[simp] theorem State.storeResults_inFlight (ua ub : PortNum) (m : Modulation PortNum) :
    (s.storeResults ua ub m).inFlight = s.inFlight := rfl
@[simp] theorem State.storeResults_draws (ua ub : PortNum) (m : Modulation PortNum) :
    (s.storeResults ua ub m).draws = m.draws := rfl
@[simp] theorem State.storeResults_host (ua ub : PortNum) (m : Modulation PortNum) :
    (s.storeResults ua ub m).host = s.host := rfl

/-! `State.commit` -/

@[simp] theorem State.commit_cfg (ua ub : PortNum) (m : Modulation PortNum) :
    (s.commit ua ub m).cfg = s.cfg := rfl
@[simp] theorem State.commit_lastUa (ua ub : PortNum) (m : Modulation PortNum) :
    (s.commit ua ub m).lastUa = ua := rfl
@[simp] theorem State.commit_lastUb (ua ub : PortNum) (m : Modulation PortNum) :
    (s.commit ua ub m).lastUb = ub := rfl
@[simp] theorem State.commit_lastSector (ua ub : PortNum) (m : Modulation PortNum) :
    (s.commit ua ub m).lastSector = sectorCode s.cfg.sectorScheme m.sectors := rfl
@[simp] theorem State.commit_lastMa (ua ub : PortNum) (m : Modulation PortNum) :
    (s.commit ua ub m).lastMa = m.duty.a := rfl
@[simp] theorem State.commit_lastMb (ua ub : PortNum) (m : Modulation PortNum) :
    (s.commit ua ub m).lastMb = m.duty.b := rfl
@[simp] theorem State.commit_lastMc (ua ub : PortNum) (m : Modulation PortNum) :
    (s.commit ua ub m).lastMc = m.duty.c := rfl
@[simp] theorem State.commit_resultValid (ua ub : PortNum) (m : Modulation PortNum) :
    (s.commit ua ub m).resultValid = true := rfl
@[simp] theorem State.commit_lastErr (ua ub : PortNum) (m : Modulation PortNum) :
    (s.commit ua ub m).lastErr = (if s.cfg.inputCheck then false else s.lastErr) := rfl
@[simp] theorem State.commit_doneO (ua ub : PortNum) (m : Modulation PortNum) :
    (s.commit ua ub m).doneO = true := rfl
@[simp] theorem State.commit_inFlight (ua ub : PortNum) (m : Modulation PortNum) :
    (s.commit ua ub m).inFlight = s.inFlight := rfl
@[simp] theorem State.commit_draws (ua ub : PortNum) (m : Modulation PortNum) :
    (s.commit ua ub m).draws = m.draws := rfl
@[simp] theorem State.commit_host (ua ub : PortNum) (m : Modulation PortNum) :
    (s.commit ua ub m).host = s.host := rfl

/-! `State.raiseInvalidInput` -/

@[simp] theorem State.raiseInvalidInput_cfg :
    s.raiseInvalidInput.cfg = s.cfg := rfl
@[simp] theorem State.raiseInvalidInput_lastUa :
    s.raiseInvalidInput.lastUa = s.lastUa := rfl
@[simp] theorem State.raiseInvalidInput_lastUb :
    s.raiseInvalidInput.lastUb = s.lastUb := rfl
@[simp] theorem State.raiseInvalidInput_lastSector :
    s.raiseInvalidInput.lastSector = s.lastSector := rfl
@[simp] theorem State.raiseInvalidInput_lastMa :
    s.raiseInvalidInput.lastMa = s.lastMa := rfl
@[simp] theorem State.raiseInvalidInput_lastMb :
    s.raiseInvalidInput.lastMb = s.lastMb := rfl
@[simp] theorem State.raiseInvalidInput_lastMc :
    s.raiseInvalidInput.lastMc = s.lastMc := rfl
@[simp] theorem State.raiseInvalidInput_resultValid :
    s.raiseInvalidInput.resultValid = s.resultValid := rfl
@[simp] theorem State.raiseInvalidInput_lastErr :
    s.raiseInvalidInput.lastErr = (if s.cfg.inputCheck then true else s.lastErr) := rfl
@[simp] theorem State.raiseInvalidInput_doneO :
    s.raiseInvalidInput.doneO = true := rfl
@[simp] theorem State.raiseInvalidInput_inFlight :
    s.raiseInvalidInput.inFlight = s.inFlight := rfl
@[simp] theorem State.raiseInvalidInput_draws :
    s.raiseInvalidInput.draws = s.draws := rfl
@[simp] theorem State.raiseInvalidInput_host :
    s.raiseInvalidInput.host = s.host := rfl

/-! `State.applyReset` -/

@[simp] theorem State.applyReset_cfg :
    s.applyReset.cfg = s.cfg := rfl
@[simp] theorem State.applyReset_lastUa :
    s.applyReset.lastUa = s.cfg.numFormat.zero := rfl
@[simp] theorem State.applyReset_lastUb :
    s.applyReset.lastUb = s.cfg.numFormat.zero := rfl
@[simp] theorem State.applyReset_lastSector :
    s.applyReset.lastSector = 0#4 := rfl
@[simp] theorem State.applyReset_lastMa :
    s.applyReset.lastMa = s.cfg.numFormat.zero := rfl
@[simp] theorem State.applyReset_lastMb :
    s.applyReset.lastMb = s.cfg.numFormat.zero := rfl
@[simp] theorem State.applyReset_lastMc :
    s.applyReset.lastMc = s.cfg.numFormat.zero := rfl
@[simp] theorem State.applyReset_resultValid :
    s.applyReset.resultValid = false := rfl
@[simp] theorem State.applyReset_lastErr :
    s.applyReset.lastErr = false := rfl
@[simp] theorem State.applyReset_doneO :
    s.applyReset.doneO = false := rfl
@[simp] theorem State.applyReset_inFlight :
    s.applyReset.inFlight = none := rfl
@[simp] theorem State.applyReset_draws :
    s.applyReset.draws = s.draws := rfl
@[simp] theorem State.applyReset_host :
    s.applyReset.host = s.host := rfl

/-! `State.present` -/

@[simp] theorem State.present_cfg (w : CmdWords) :
    (s.present w).cfg = s.cfg := rfl
@[simp] theorem State.present_lastUa (w : CmdWords) :
    (s.present w).lastUa = s.lastUa := rfl
@[simp] theorem State.present_lastUb (w : CmdWords) :
    (s.present w).lastUb = s.lastUb := rfl
@[simp] theorem State.present_lastSector (w : CmdWords) :
    (s.present w).lastSector = s.lastSector := rfl
@[simp] theorem State.present_lastMa (w : CmdWords) :
    (s.present w).lastMa = s.lastMa := rfl
@[simp] theorem State.present_lastMb (w : CmdWords) :
    (s.present w).lastMb = s.lastMb := rfl
@[simp] theorem State.present_lastMc (w : CmdWords) :
    (s.present w).lastMc = s.lastMc := rfl
@[simp] theorem State.present_resultValid (w : CmdWords) :
    (s.present w).resultValid = s.resultValid := rfl
@[simp] theorem State.present_lastErr (w : CmdWords) :
    (s.present w).lastErr = s.lastErr := rfl
@[simp] theorem State.present_doneO (w : CmdWords) :
    (s.present w).doneO = s.doneO := rfl
@[simp] theorem State.present_inFlight (w : CmdWords) :
    (s.present w).inFlight = none := rfl
@[simp] theorem State.present_draws (w : CmdWords) :
    (s.present w).draws = s.draws := rfl
@[simp] theorem State.present_host (w : CmdWords) :
    (s.present w).host = { rst := false, words := w, reads := [] } :: s.host.tail := rfl

end Sys2Proof.Machine
end

