-- ==== Sys2Proof/Laws/Ops.lean ====
section
/-!
SUPPORT. What each shared operation over the registers can do, said once: reading the operands, `modulate`, `LAST_ERR`,
the sector code, and sampling the ports.
-/

namespace Sys2Proof.Machine

/-! ## LAST_ERR -/

@[simp] theorem State.commit_err (s : State) (ua ub : PortNum) (m : Modulation PortNum) : (s.commit ua ub m).err = false := by
  cases h : s.cfg.inputCheck <;> simp [State.err, h]

@[simp] theorem State.raiseInvalidInput_err (s : State) : s.raiseInvalidInput.err = s.cfg.inputCheck := by
  cases h : s.cfg.inputCheck <;> simp [State.err, h]

@[simp] theorem State.applyReset_err (s : State) : s.applyReset.err = false := by simp [State.err]

@[simp] theorem State.setDone_err (s : State) (b : Bool) : (s.setDone b).err = s.err := rfl

@[simp] theorem State.setInFlight_err (s : State) (p : Option InFlight) : (s.setInFlight p).err = s.err := rfl

@[simp] theorem State.hostAdvance_err (s : State) : s.hostAdvance.err = s.err := rfl

/-! ## The sector code -/

/-- The code written to `LAST_SECTOR` is never a reserved one. -/
theorem sectorCode_valid (scheme : SectorScheme) (k : Sectors) : sectorCodeValid scheme (sectorCode scheme k) := by
  obtain ⟨⟨a, ha⟩, ⟨b, hb⟩⟩ := k
  cases scheme <;> simp only [sectorCodeValid, sectorCode, BitVec.toNat_ofNat] <;> omega

/-! ## Operands -/

/-- A number of the instance's format, as the format says what it is. -/
theorem holds_cases {f : NumFormat} {x : PortNum} (h : f.holds x = true) :
    (∃ c w, f = .binary32 c ∧ x = .b32 w) ∨ (∃ c w, f = .binary64 c ∧ x = .b64 w) ∨ (∃ e, f = .real ∧ x = .real e) := by
  cases f <;> cases x <;> simp_all [NumFormat.holds]

@[simp] theorem NumFormat.holds_zero (f : NumFormat) : f.holds f.zero = true := by cases f <;> rfl

/-- Operands the ports can carry are read. -/
theorem readOperands_of_holds {f : NumFormat} {ua ub : PortNum} (ha : f.holds ua = true) (hb : f.holds ub = true) :
    (∃ c a b, f = .binary32 c ∧ ua = .b32 a ∧ ub = .b32 b) ∨
    (∃ c a b, f = .binary64 c ∧ ua = .b64 a ∧ ub = .b64 b) ∨
    (∃ a b, f = .real ∧ ua = .real a ∧ ub = .real b) := by
  cases f <;> cases ua <;> cases ub <;> simp_all [NumFormat.holds]

/-! ## modulate -/

/-- A command in one number format is turned away by the check or updates the registers; nothing else. -/
theorem modulateIn_cases {α : Type} (A : Arith α) (toNum : α → PortNum) (mode : Mode) (ua ub : α) (s : State) :
    (s.cfg.inputCheck = true ∧ (A.finite ua && A.finite ub) = false ∧
      modulateIn A toNum mode ua ub s = s.raiseInvalidInput) ∨
    ((s.cfg.inputCheck = false ∨ (A.finite ua && A.finite ub) = true) ∧
      modulateIn A toNum mode ua ub s =
        s.commit (toNum ua) (toNum ub) ((modulation A s.cfg mode s.draws ua ub).map toNum)) := by
  unfold modulateIn
  cases s.cfg.inputCheck <;> cases h : (A.finite ua && A.finite ub) <;> simp

/-- Everything a `modulate` that answers a next state can have done: the input check turned the command away, or the
command wrote its operands and the results, of the instance's format, of one modulation. -/
theorem modulate_next_cases {mode : Mode} {ua ub : PortNum} {s t : State} (h : modulate mode ua ub s = .next t) :
    s.cfg.numFormat.holds ua = true ∧ s.cfg.numFormat.holds ub = true ∧
    ((s.cfg.inputCheck = true ∧ (numFinite ua && numFinite ub) = false ∧ t = s.raiseInvalidInput) ∨
     (Accepted s.cfg ua ub ∧ ∃ m, t = s.commit ua ub m ∧ s.cfg.numFormat.holds m.duty.a = true ∧
        s.cfg.numFormat.holds m.duty.b = true ∧ s.cfg.numFormat.holds m.duty.c = true)) := by
  unfold modulate at h
  split at h
  all_goals rename_i hr
  all_goals
    unfold readOperands at hr
    split at hr <;> simp only [Option.some.injEq, reduceCtorEq, Operands.binary32.injEq, Operands.binary64.injEq,
      Operands.real.injEq] at hr
  · rename_i hf
    obtain ⟨rfl, rfl, rfl⟩ := hr
    simp only [Host.Outcome.next.injEq] at h
    rw [hf]
    refine ⟨rfl, rfl, ?_⟩
    rcases modulateIn_cases (arith32 _) PortNum.b32 mode _ _ s with ⟨h1, h2, h3⟩ | ⟨h1, h2⟩
    · exact .inl ⟨h1, h2, h ▸ h3⟩
    · exact .inr ⟨h1.imp id Bool.and_eq_true_iff.mp, _, h ▸ h2, rfl, rfl, rfl⟩
  · rename_i hf
    obtain ⟨rfl, rfl, rfl⟩ := hr
    simp only [Host.Outcome.next.injEq] at h
    rw [hf]
    refine ⟨rfl, rfl, ?_⟩
    rcases modulateIn_cases (arith64 _) PortNum.b64 mode _ _ s with ⟨h1, h2, h3⟩ | ⟨h1, h2⟩
    · exact .inl ⟨h1, h2, h ▸ h3⟩
    · exact .inr ⟨h1.imp id Bool.and_eq_true_iff.mp, _, h ▸ h2, rfl, rfl, rfl⟩
  · rename_i hf
    obtain ⟨rfl, rfl⟩ := hr
    simp only [Host.Outcome.next.injEq] at h
    rw [hf]
    refine ⟨rfl, rfl, ?_⟩
    rcases modulateIn_cases exactArith PortNum.real mode _ _ s with ⟨h1, h2, h3⟩ | ⟨h1, h2⟩
    · exact .inl ⟨h1, h2, h ▸ h3⟩
    · exact .inr ⟨h1.imp id Bool.and_eq_true_iff.mp, _, h ▸ h2, rfl, rfl, rfl⟩
  all_goals simp at h

/-- Operands the ports can carry are modulated. -/
theorem modulate_next_of_holds (mode : Mode) {ua ub : PortNum} {s : State} (ha : s.cfg.numFormat.holds ua = true)
    (hb : s.cfg.numFormat.holds ub = true) : ∃ t, modulate mode ua ub s = .next t := by
  rcases readOperands_of_holds ha hb with ⟨c, a, b, hf, rfl, rfl⟩ | ⟨c, a, b, hf, rfl, rfl⟩ | ⟨a, b, hf, rfl, rfl⟩ <;>
    exact ⟨_, by simp only [modulate, hf, readOperands]; rfl⟩

/-- `modulate` never faults. -/
theorem modulate_ne_fault (mode : Mode) (ua ub : PortNum) (s : State) (r : Fault) : modulate mode ua ub s ≠ .fault r := by
  unfold modulate
  split <;> simp

@[simp] theorem exec_modulateInstr (mode : Mode) (ua ub : PortNum) (s : State) :
    exec (modulateInstr mode ua ub) s = modulate mode ua ub s := by cases mode <;> rfl

@[simp] theorem exec_idle (s : State) : exec .idle s = .next (s.setDone false) := rfl

@[simp] theorem exec_modulateSvpwm (ua ub : PortNum) (s : State) :
    exec (.modulateSvpwm ua ub) s = modulate .svpwm ua ub s := rfl

@[simp] theorem exec_modulateThipwm (ua ub : PortNum) (s : State) :
    exec (.modulateThipwm ua ub) s = modulate .thipwm ua ub s := rfl

/-- Everything a command that answers a next state can have done: nothing but `done_o` (`IDLE`), or a `modulate`. -/
theorem exec_cases (i : Instr) (s : State) :
    (i = .idle ∧ exec i s = .next (s.setDone false)) ∨
    (∃ mode ua ub, i = modulateInstr mode ua ub ∧ exec i s = modulate mode ua ub s) := by
  cases i with
  | idle => exact .inl ⟨rfl, rfl⟩
  | modulateSvpwm ua ub => exact .inr ⟨.svpwm, ua, ub, rfl, rfl⟩
  | modulateThipwm ua ub => exact .inr ⟨.thipwm, ua, ub, rfl, rfl⟩

/-! ## Sampling the ports -/

/-- A port's sample faults exactly when it shows a result register that holds no value. -/
theorem readPort_eq_error_iff (s : State) (p : OutPort) (r : Fault) :
    s.readPort p = .error r ↔ r = .readUnwritten ∧ portIsResult p = true ∧ s.resultValid = false := by
  unfold State.readPort
  cases portIsResult p <;> cases s.resultValid <;> simp [eq_comm]

/-- Samples of a state whose results are valid never fault. -/
theorem readsFault_of_valid {s : State} (h : s.resultValid = true) (ports : List OutPort) :
    s.readsFault ports = false := by simp [State.readsFault, h]

@[simp] theorem readsFault_nil (s : State) : s.readsFault [] = false := rfl

end Sys2Proof.Machine
end

