-- ==== Sys2Proof/Laws/PerInstr.lean ====
section
/-!
SUPPORT. Each command's row of the opcode table (30_encoding R87): the bits it fixes in the command word, and that they
alone decide it.
-/

namespace Sys2Proof.Laws.OpcodeRow

/-- The bits of `cmd` that the command's row fixes. -/
def rowMask : Instr → BitVec 2
  | .idle => 0b10#2
  | .modulateSvpwm _ _ => 0b11#2
  | .modulateThipwm _ _ => 0b11#2

/-- What the row fixes them to. -/
def rowMatch : Instr → BitVec 2
  | .idle => 0b00#2
  | .modulateSvpwm _ _ => 0b10#2
  | .modulateThipwm _ _ => 0b11#2

/-- The command's word lies in its row in every number format, and a command word decodes to a command of that row exactly
when it has the bits the row fixes. -/
def Statement (i : Instr) : Prop :=
  (∀ f : NumFormat, (encodeWords f i).cmd &&& rowMask i = rowMatch i) ∧
  ∀ w : CmdWords, w.cmd &&& rowMask i = rowMatch i ↔ rowMatch (decodeWords w) = rowMatch i

/-- The row a command word lies in. -/
theorem rowMatch_decodeWords (w : CmdWords) :
    rowMatch (decodeWords w) = if cmdStart w.cmd then cmdOf true (cmdMode w.cmd) else 0b00#2 := by
  obtain ⟨cmd, ua, ub⟩ := w
  unfold decodeWords
  cases cmdStart cmd <;> cases cmdMode cmd <;> rfl

/-- A command word alone decides whether it has the bits a row fixes. -/
theorem match_iff (mask pattern : BitVec 2)
    (h : ∀ cmd : BitVec 2, cmd &&& mask = pattern ↔
      (if cmdStart cmd then cmdOf true (cmdMode cmd) else 0b00#2) = pattern) (w : CmdWords) :
    w.cmd &&& mask = pattern ↔ rowMatch (decodeWords w) = pattern := by
  rw [rowMatch_decodeWords]
  exact h w.cmd

theorem idle : Statement .idle :=
  ⟨fun _ => show cmdOf false .svpwm &&& 0b10#2 = 0b00#2 by decide, match_iff 0b10#2 0b00#2 (by decide)⟩

theorem modulateSvpwm (ua ub : PortNum) : Statement (.modulateSvpwm ua ub) :=
  ⟨fun _ => show cmdOf true .svpwm &&& 0b11#2 = 0b10#2 by decide, match_iff 0b11#2 0b10#2 (by decide)⟩

theorem modulateThipwm (ua ub : PortNum) : Statement (.modulateThipwm ua ub) :=
  ⟨fun _ => show cmdOf true .thipwm &&& 0b11#2 = 0b11#2 by decide, match_iff 0b11#2 0b11#2 (by decide)⟩

end Sys2Proof.Laws.OpcodeRow
end

