-- ==== Sys2Proof/Laws/Sectors.lean ====
section
/-! SUPPORT. The pair of each sector, and the decision tree over ℝ with the order of ℝ itself. -/

namespace Sys2Proof.Machine

@[simp] theorem pairOf_0 : pairOf 0 = 0 := rfl
@[simp] theorem pairOf_1 : pairOf 1 = 0 := rfl
@[simp] theorem pairOf_2 : pairOf 2 = 1 := rfl
@[simp] theorem pairOf_3 : pairOf 3 = 1 := rfl
@[simp] theorem pairOf_4 : pairOf 4 = 2 := rfl
@[simp] theorem pairOf_5 : pairOf 5 = 2 := rfl
@[simp] theorem pairOf_6 : pairOf 6 = 3 := rfl
@[simp] theorem pairOf_7 : pairOf 7 = 3 := rfl
@[simp] theorem pairOf_8 : pairOf 8 = 4 := rfl
@[simp] theorem pairOf_9 : pairOf 9 = 4 := rfl
@[simp] theorem pairOf_10 : pairOf 10 = 5 := rfl
@[simp] theorem pairOf_11 : pairOf 11 = 5 := rfl

@[simp] theorem realArith_lt (x y : ℝ) : realArith.lt x y = decide (x < y) := rfl
@[simp] theorem realArith_neg (x : ℝ) : realArith.neg x = -x := rfl
@[simp] theorem realArith_finite (x : ℝ) : realArith.finite x = true := rfl

/-- In exact arithmetic every projection is finite. -/
@[simp] theorem projFinite_realArith (t : Proj ℝ) : projFinite realArith t = true := rfl

@[simp] theorem projFinite_exactArith (t : Proj Exact) : projFinite exactArith t = true := rfl

/-- The decision tree of 41 R113 over ℝ. -/
theorem classifyTree_real (t : Proj ℝ) : classifyTree realArith t =
    if 0 < t.ta then
      if 0 < t.tc then { s6 := 0, s12 := if t.ta < t.tc then 0 else 1 }
      else if t.tb < 0 then { s6 := 1, s12 := if t.tb < t.tc then 2 else 3 }
      else { s6 := 2, s12 := if t.tb < t.ta then 4 else 5 }
    else
      if t.tc < 0 then { s6 := 3, s12 := if t.tc < t.ta then 6 else 7 }
      else if 0 < t.tb then { s6 := 4, s12 := if t.tc < t.tb then 8 else 9 }
      else { s6 := 5, s12 := if t.ta < t.tb then 10 else 11 } := by
  simp only [classifyTree, realArith, decide_eq_true_eq]

end Sys2Proof.Machine
end

