-- ==== Sys2Proof/Laws/Step.lean ====
section
/-! SUPPORT. Everything a step that answers a next state can have done. -/

namespace Sys2Proof.Machine

/-- A command that needs more cycles is accepted whole, or refused because no port could carry its operands. -/
theorem accept_next {s t : State} {w : CmdWords} (h : s.accept w = .next t) :
    w.wf s.cfg.numFormat = true ∧
    t = (s.setInFlight (some { mode := cmdMode w.cmd, ua := w.ua, ub := w.ub, left := s.cfg.latency - 1 })).setDone
      false := by
  unfold State.accept at h
  split at h
  · rename_i hw
    exact ⟨hw, by simpa using h.symm⟩
  · cases h

/-- The operands of a command in flight are held exactly when its mode and the values of its operands have not changed. -/
theorem held_iff (p : InFlight) (w : CmdWords) :
    p.held w = true ↔ cmdMode w.cmd = p.mode ∧ ¬ NumChanged p.ua w.ua ∧ ¬ NumChanged p.ub w.ub := by
  simp [InFlight.held, sameNum_iff, and_assoc]

/-- A cycle of a command in flight that does not fault completes it or counts. -/
theorem flightCycle_next {s t : State} {p : InFlight} {w : CmdWords} (h : s.flightCycle p w = .next t) :
    cmdStart w.cmd = false ∧ p.held w = true ∧
    ((p.left ≤ 1 ∧ modulate p.mode p.ua p.ub (s.setInFlight none) = .next t) ∨
     (1 < p.left ∧ t = (s.setInFlight (some { p with left := p.left - 1 })).setDone false)) := by
  unfold State.flightCycle at h
  split at h
  · cases h
  · rename_i h1
    split at h
    · cases h
    · rename_i h2
      refine ⟨by simpa using h1, by simpa using h2, ?_⟩
      split at h
      · rename_i h3
        exact .inl ⟨h3, by simpa using h⟩
      · rename_i h3
        exact .inr ⟨by omega, by simpa using h.symm⟩

/-- The steps that answer a next state, one by one: a reset; a cycle of a command in flight; the acceptance of a
command; `IDLE`; a command that completes at once. -/
theorem step_next_cases {s t : State} (h : step s = .next t) :
    s.readsFault s.presented.reads = false ∧
    ((s.presented.rst = true ∧ t = s.hostAdvance.applyReset) ∨
     (s.presented.rst = false ∧ ∃ p, s.inFlight = some p ∧
        s.hostAdvance.flightCycle p s.presented.words = .next t) ∨
     (s.presented.rst = false ∧ s.inFlight = none ∧ cmdStart s.presented.words.cmd = true ∧ 1 < s.cfg.latency ∧
        s.hostAdvance.accept s.presented.words = .next t) ∨
     (s.presented.rst = false ∧ s.inFlight = none ∧ cmdStart s.presented.words.cmd = false ∧
        t = s.hostAdvance.setDone false) ∨
     (s.presented.rst = false ∧ s.inFlight = none ∧ cmdStart s.presented.words.cmd = true ∧ s.cfg.latency ≤ 1 ∧
        modulate (cmdMode s.presented.words.cmd) s.presented.words.ua s.presented.words.ub s.hostAdvance = .next t)) := by
  unfold step State.hostCycle at h
  split at h
  · cases h
  rename_i hr
  refine ⟨by simpa using hr, ?_⟩
  unfold State.cycle at h
  split at h
  · rename_i hrst
    exact .inl ⟨hrst, by simpa using h.symm⟩
  rename_i hrst
  have hrst' : s.presented.rst = false := by simpa using hrst
  split at h
  · rename_i p hp
    exact .inr (.inl ⟨hrst', p, hp, h⟩)
  rename_i hp
  split at h
  · rename_i hc
    simp only [Bool.and_eq_true, decide_eq_true_eq] at hc
    exact .inr (.inr (.inl ⟨hrst', hp, hc.1, hc.2, h⟩))
  rename_i hc
  cases hs : cmdStart s.presented.words.cmd with
  | false =>
    refine .inr (.inr (.inr (.inl ⟨hrst', hp, rfl, ?_⟩)))
    simpa [decodeWords, hs] using h.symm
  | true =>
    refine .inr (.inr (.inr (.inr ⟨hrst', hp, rfl, ?_, ?_⟩)))
    · simp only [hs, Bool.true_and, decide_eq_true_eq, not_lt] at hc
      exact hc
    · simpa [decodeWords, hs] using h

end Sys2Proof.Machine
end

