-- ==== Sys2Proof/Tests/Slice0.lean ====
section
/-!
SUPPORT. The model's own tests: ill-formed terms refused; command words written out bit by bit from 30_encoding R81; the
programs of 95_test_vectors part 3; and for each statement with hypotheses a concrete case that meets them (`witness`).
Expected values are those of the spec's tables.
-/

namespace Sys2Proof.Tests

open Sys2Proof.Machine

/-! ## Small builders -/

/-- A binary64 configuration. -/
def cfg64 (check : Bool) (latency : Nat) : Config :=
  { Config.default with inputCheck := check, latency := latency }

/-- A binary32 configuration that reports six sectors (95_test_vectors P6). -/
def cfg32 : Config := { Config.default with numFormat := .binary32 sqrt3Binary32, sectorScheme := .six }

/-- A `REAL` configuration. -/
def cfgReal : Config := { Config.default with numFormat := .real }

/-- Words of binary64 operands. -/
def words64 (cmd : BitVec 2) (ua ub : BitVec 64) : CmdWords := { cmd := cmd, ua := .b64 ua, ub := .b64 ub }

/-- A host step that presents words and samples ports. -/
def hostStep (w : CmdWords) (reads : List OutPort) : HostStep := { rst := false, words := w, reads := reads }

/-- A host step with `rst = 1`. -/
def resetStep : HostStep := { rst := true, words := words64 0b10#2 0x3FF0000000000000#64 0#64, reads := [] }

/-- A binary64 instance that completed `MODULATE.SVPWM 0.0, 0.0` (95_test_vectors P4 step 2). -/
def zeroDone (c : Config) (hosts : List HostStep) : State :=
  { State.resetOf c hosts with
    lastSector := 11#4, lastMa := .b64 0x3FE0000000000000#64, lastMb := .b64 0x3FE0000000000000#64,
    lastMc := .b64 0x3FE0000000000000#64, resultValid := true }

/-- The command of `MODULATE.SVPWM 1.0, 0.0` in flight. -/
def inFlightOne (left : Nat) : InFlight :=
  { mode := .svpwm, ua := .b64 0x3FF0000000000000#64, ub := .b64 0#64, left := left }

/-- Whether an outcome is a next state with a property. -/
def nextHas (p : State → Bool) : Host.Outcome State Fault Refusal → Bool
  | .next t => p t
  | _ => false

/-- Whether an outcome is a fault. -/
def faultIs (r : Fault) : Host.Outcome State Fault Refusal → Bool
  | .fault q => decide (q = r)
  | _ => false

/-! ## Well-formedness refuses -/

theorem test_config_latency_zero : (cfg64 false 0).wf = false := by decide
theorem test_config_default_wf : Config.default.wf = true := by decide
theorem test_svpwm_ua_of_another_format :
    (Instr.modulateSvpwm (.b32 0#32) (.b64 0#64)).wf (.binary64 sqrt3Binary64) = false := by decide
theorem test_svpwm_ub_of_another_format :
    (Instr.modulateSvpwm (.b64 0#64) (.real (exactOfRat 0))).wf (.binary64 sqrt3Binary64) = false := by decide
theorem test_thipwm_ua_of_another_format :
    (Instr.modulateThipwm (.b64 0#64) (.b32 0#32)).wf (.binary32 sqrt3Binary32) = false := by decide
theorem test_thipwm_ub_of_another_format :
    (Instr.modulateThipwm (.real (exactOfRat 0)) (.b64 0#64)).wf .real = false := by decide
theorem test_host_step_of_another_format :
    (hostStep (words64 0b10#2 0#64 0#64) []).wf (.binary32 sqrt3Binary32) = false := by decide
theorem test_operand_of_another_format_refused :
    exec (.modulateSvpwm (.b32 0#32) (.b32 0#32)) State.reset = .refused .operandFormat := rfl

/-! ## Decoding words written out from 30_encoding R81, R87 -/

theorem test_decode_idle : decodeTableWord 8 0b00000000 = some .idle := by decide
theorem test_decode_idle_mode_ignored : decodeTableWord 8 0b00000001 = some .idle := by decide
theorem test_decode_svpwm :
    decodeTableWord 8 0b00000010 = some (.modulateSvpwm (.b64 0#64) (.b64 0#64)) := by decide
theorem test_decode_thipwm :
    decodeTableWord 8 0b00000011 = some (.modulateThipwm (.b64 0#64) (.b64 0#64)) := by decide
/-- A 66-bit frame whose `ua` and `ub` differ at both ends. -/
theorem test_decode_frame_operands :
    decodeFrame (.binary32 sqrt3Binary32) 66 0b10_10000000000000000000000000000001_01000000000000000000000000000010 =
      .ok (.modulateSvpwm (.b32 0x80000001#32) (.b32 0x40000002#32)) := by decide
theorem test_decode_frame_too_long :
    decodeFrame (.binary32 sqrt3Binary32) 67 0 = .error .frameLength := by decide
theorem test_decode_real_has_no_frame : decodeFrame .real 2 0 = .error .noBitLayout := by decide
/-- The words that the host asks `step` to run first after reset. -/
theorem test_placed_words_run :
    nextHas (fun t => !t.doneO) (step (State.reset.withFetchWord 8 0b00)) = true ∧
    nextHas (fun t => decide (t.lastMa = .b64 0x3FE0000000000000#64)) (step (State.reset.withFetchWord 8 0b10)) = true ∧
    nextHas (fun t => decide (t.lastMa = .b64 0#64) && t.doneO) (step (State.reset.withFetchWord 8 0b11)) = true := by
  decide +kernel
/-- 30_encoding R90: a decimal operand is rounded to the format; a pattern needs exactly W/4 digits. -/
theorem test_literals :
    literalNum (.binary64 sqrt3Binary64) (.decimal false 7 (-1)) = .ok (.b64 0x3FE6666666666666#64) ∧
    literalNum (.binary64 sqrt3Binary64) (.hex 16 0xBFEBB67AE8584CAA) = .ok (.b64 0xBFEBB67AE8584CAA#64) ∧
    literalNum (.binary64 sqrt3Binary64) (.hex 8 0x3F800000) = .error .hexDigits := by decide +kernel

/-! ## One step of each command (95_test_vectors part 3) -/

/-- P1 step 2. -/
theorem test_svpwm_scenario_one :
    nextHas (fun t => decide (t.lastSector = 11#4 ∧ t.lastMa = .b64 0x3FEDDB3D742C2655#64 ∧
        t.lastMb = .b64 0x3FB126145E9ECD58#64 ∧ t.lastMc = .b64 0x3FB126145E9ECD58#64))
      (exec (.modulateSvpwm (.b64 0x3FF0000000000000#64) (.b64 0#64)) State.reset) = true := by decide +kernel
/-- P6 step 2: binary32, the six-sector report. -/
theorem test_svpwm_binary32_six :
    nextHas (fun t => decide (t.lastSector = 5#4 ∧ t.lastMa = .b32 0x3F6ED9EC#32 ∧ t.lastMb = .b32 0x3D8930A4#32 ∧
        t.lastMc = .b32 0x3D8930A4#32))
      (exec (.modulateSvpwm (.b32 0x3F800000#32) (.b32 0#32)) (State.resetOf cfg32 [])) = true := by decide +kernel
/-- P2 step 4. -/
theorem test_thipwm_minus_one :
    nextHas (fun t => decide (t.lastSector = 6#4 ∧ t.lastMa = .b64 0x3FC126145E9ECD58#64 ∧
        t.lastMb = .b64 0x3FF0000000000000#64 ∧ t.lastMc = .b64 0x3FF0000000000000#64))
      (exec (.modulateThipwm (.b64 0xBFF0000000000000#64) (.b64 0#64)) State.reset) = true := by decide +kernel
/-- P6 step 3: the bounds cross by rounding, and the final clamp moves `mc` to 0. -/
theorem test_thipwm_binary32_crossed :
    nextHas (fun t => decide (t.lastSector = 1#4 ∧ t.lastMa = .b32 0x3EFFFFFF#32 ∧ t.lastMb = .b32 0x3F800000#32 ∧
        t.lastMc = .b32 0#32))
      (exec (.modulateThipwm (.b32 0#32) (.b32 0x3F800000#32)) (State.resetOf cfg32 [])) = true := by decide +kernel
/-- P1 step 3. -/
theorem test_idle_keeps :
    nextHas (fun t => decide (t = { zeroDone Config.default [] with doneO := false }))
      (exec .idle { zeroDone Config.default [] with doneO := true }) = true := by decide
/-- P4 step 3: `InvalidInput` sets `LAST_ERR` and nothing else. -/
theorem test_invalid_input :
    nextHas (fun t => decide (t = { zeroDone (cfg64 true 1) [] with lastErr := true, doneO := true }))
      (exec (.modulateThipwm (.b64 0x7FF8000000000000#64) (.b64 0#64)) (zeroDone (cfg64 true 1) [])) = true := by
  decide +kernel

/-! ## Faults (95_test_vectors P5): a witness of each cause -/

/-- P5a. -/
theorem test_read_unwritten :
    faultIs .readUnwritten
      (step (State.resetOf Config.default [hostStep (words64 0b00#2 0#64 0#64) OutPort.all])) = true := by decide
/-- P5b. -/
theorem test_start_while_busy :
    faultIs .startWhileBusy (step { State.resetOf (cfg64 false 3) [hostStep (words64 0b10#2 0#64 0#64) []] with
      inFlight := some (inFlightOne 2) }) = true := by decide
/-- P5c. -/
theorem test_operands_changed :
    faultIs .operandsChanged
      (step { State.resetOf (cfg64 false 3) [hostStep (words64 0b00#2 0x3FE0000000000000#64 0#64) []] with
        inFlight := some (inFlightOne 2) }) = true := by decide
/-- In `REAL` an operand is held when the port shows the same real number, here x₀ in another form and 0 as another sum, and
changed when it shows another (R61, R226). -/
theorem test_operands_held_real :
    InFlight.held { mode := .svpwm, ua := .real (exactFree 0), ub := .real (exactOfRat 0), left := 2 }
      { cmd := 0b00#2
        ua := .real { known := surdOfRat 0, free := [surdOfRat 1, surdOfRat 0] }
        ub := .real { known := surdOfRat 0, free := [surdOfRat 0] } } = true ∧
    InFlight.held { mode := .svpwm, ua := .real (exactFree 0), ub := .real (exactOfRat 0), left := 2 }
      { cmd := 0b00#2, ua := .real (exactFree 0), ub := .real (exactOfRat 1) } = false := by decide +kernel
/-- P5d: after cycle t + 2 the registers are those of P1 step 2. -/
theorem test_clocked_command :
    nextHas (fun t => decide (t.lastMa = .b64 0x3FEDDB3D742C2655#64) && t.doneO)
      (step { State.resetOf (cfg64 false 3) [] with inFlight := some (inFlightOne 1) }) = true := by decide +kernel

/-! ## Witnesses: encoding -/

theorem witness_DecodeEncodeRoundTrip :
    (Instr.modulateThipwm (.b64 0xFFFFFFFFFFFFFFFF#64) (.b64 0#64)).wf (.binary64 sqrt3Binary64) = true ∧
    (NumFormat.binary64 sqrt3Binary64).width = some 64 := by decide

/-- The last frame that is an `IDLE` and the first that is not. -/
theorem witness_EveryFrameIsACommand :
    (NumFormat.binary64 sqrt3Binary64).width = some 64 ∧ 2 ^ 129 - 1 < 2 ^ (2 + 2 * 64) ∧ 2 ^ 129 - 1 < 2 ^ (1 + 2 * 64) ∧
    2 ^ 129 < 2 ^ (2 + 2 * 64) ∧ 2 ^ (1 + 2 * 64) ≤ 2 ^ 129 := by decide

/-- Operands in both spellings, and patterns one digit short and of the longest value. -/
theorem witness_AssembledLineDecodes :
    literalNum (.binary64 sqrt3Binary64) (.decimal true 1 0) = .ok (.b64 0xBFF0000000000000#64) ∧
    literalNum (.binary64 sqrt3Binary64) (.hex 16 0) = .ok (.b64 0#64) ∧
    literalNum (.binary32 sqrt3Binary32) (.hex 8 0xFFFFFFFF) = .ok (.b32 0xFFFFFFFF#32) ∧
    literalNum (.binary32 sqrt3Binary32) (.hex 7 0) = .error .hexDigits := by decide +kernel

/-! ## Witnesses: arithmetic -/

/-- 1/3 has a finite rounding and 1 is a finite value; the threshold of overflow itself is an infinity, of the number's
sign. -/
theorem witness_RoundingIsNearestEven :
    ieeeValue binary32Layout (ieeeRound binary32Layout 32 false (1 / 3)) = .finite false (11184811 / 33554432) ∧
    ieeeValue binary32Layout 0x3F800000#32 = .finite false 1 ∧
    ieeeValue binary32Layout (ieeeRound binary32Layout 32 false (-(2 ^ 25 - 1) * 2 ^ 103)) = .inf true ∧
    overflowThreshold binary32Layout = (2 ^ 25 - 1) * 2 ^ 103 ∧
    ieeeFinite binary64Layout (ieeeRound binary64Layout 64 false ((2 ^ 54 - 1) * 2 ^ 970 - 1)) = true := by decide +kernel

theorem witness_OperationsRoundOnce :
    ieeeValue binary64Layout 0x3FF0000000000000#64 = .finite false 1 ∧
    ieeeValue binary64Layout 0xC000000000000000#64 = .finite true 2 ∧ (2 : ℚ) ≠ 0 := by decide +kernel

/-- A NaN, both infinities and a zero divisor. -/
theorem witness_OperationsRoundOnce_special :
    ieeeValue binary32Layout 0x7FC00000#32 = .nan ∧ ieeeValue binary32Layout 0x7F800000#32 = .inf false ∧
    ieeeValue binary32Layout 0xFF800000#32 = .inf true ∧ ieeeValue binary32Layout 0x80000000#32 = .finite true 0 := by
  decide +kernel

theorem witness_ComparisonsAreOrdered :
    ieeeValue binary64Layout 0x7FF8000000000000#64 = .nan ∧
    ieeeValue binary64Layout 0x8000000000000000#64 = .finite true 0 ∧
    ieeeValue binary64Layout 0x7FF0000000000000#64 = .inf false ∧
    ieeeValue binary64Layout 0xFFF0000000000000#64 = .inf true := by decide +kernel

/-- 95_test_vectors 2.7: ordered bounds and crossed bounds. -/
theorem witness_ClampFormsAgreeOnOrderedBounds :
    MachineArith exactArith ∧
    exactArith.lt (exactOfRat (1 / 5)) (exactOfRat (-1 / 5)) = false ∧
    exactArith.lt (exactOfRat (-1 / 2)) (exactOfRat 0) = true ∧
    exactArith.lt (exactOfRat 0) (exactOfRat (1 / 2)) = true :=
  ⟨.real machineOrder, by decide +kernel, by decide +kernel, by decide +kernel⟩

/-! ## Witnesses: the stages -/

/-- A projection triple of whole numbers. -/
def proj (a b c : Rat) : Proj Exact := { ta := exactOfRat a, tb := exactOfRat b, tc := exactOfRat c }

/-- One triple for each row of the table, three of them with a projection that is 0. -/
theorem witness_ClassifierTables :
    (exactArith.lt exactArith.zero (proj 1 (-2) 1).ta = true ∧ exactArith.lt exactArith.zero (proj 1 (-2) 1).tc = true) ∧
    (exactArith.lt exactArith.zero (proj 1 (-1) 0).ta = true ∧ exactArith.lt exactArith.zero (proj 1 (-1) 0).tc = false ∧
      exactArith.lt (proj 1 (-1) 0).tb exactArith.zero = true) ∧
    (exactArith.lt exactArith.zero (proj 1 0 (-1)).ta = true ∧ exactArith.lt exactArith.zero (proj 1 0 (-1)).tc = false ∧
      exactArith.lt (proj 1 0 (-1)).tb exactArith.zero = false) ∧
    (exactArith.lt exactArith.zero (proj 0 1 (-1)).ta = false ∧ exactArith.lt (proj 0 1 (-1)).tc exactArith.zero = true) ∧
    (exactArith.lt exactArith.zero (proj (-1) 1 0).ta = false ∧ exactArith.lt (proj (-1) 1 0).tc exactArith.zero = false ∧
      exactArith.lt exactArith.zero (proj (-1) 1 0).tb = true) ∧
    (exactArith.lt exactArith.zero (proj 0 0 0).ta = false ∧ exactArith.lt (proj 0 0 0).tc exactArith.zero = false ∧
      exactArith.lt exactArith.zero (proj 0 0 0).tb = false) := by decide +kernel

/-- An angle on the border of two sectors, and the last sector's lower border. -/
theorem witness_SectorAngleMap :
    ((0 : ℝ) < 1 ∧ Real.pi / 6 ≠ 0 ∧ ((1 : Fin 12).val : ℝ) * (Real.pi / 6) ≤ Real.pi / 6 ∧
      Real.pi / 6 < (((1 : Fin 12).val : ℝ) + 1) * (Real.pi / 6)) ∧
    (11 * (Real.pi / 6) ≠ 0 ∧ ((11 : Fin 12).val : ℝ) * (Real.pi / 6) ≤ 11 * (Real.pi / 6) ∧
      11 * (Real.pi / 6) < (((11 : Fin 12).val : ℝ) + 1) * (Real.pi / 6)) ∧ (0 : ℝ) ≤ 0 := by
  have h := Real.pi_pos
  have h1 : ((1 : Fin 12).val : ℝ) = 1 := by norm_num
  have h11 : ((11 : Fin 12).val : ℝ) = 11 := by norm_num
  rw [h1, h11]
  refine ⟨⟨one_pos, by positivity, by linarith, by linarith⟩, ⟨by positivity, le_refl _, by linarith⟩, le_refl _⟩

/-- An infinite projection, and the finite ones of the zero command. -/
theorem witness_NonfiniteSectorIsDrawn :
    projFinite (arith64 sqrt3Binary64) (project (arith64 sqrt3Binary64) 0x7FF0000000000000#64 0#64) = false ∧
    projFinite (arith64 sqrt3Binary64) (project (arith64 sqrt3Binary64) 0#64 0#64) = true := by decide +kernel

/-- Every sector falls under one row of the table and no sector under two: the rows are those of `pairOf`. -/
theorem witness_PairCoefficientTable :
    ∀ s12 : Fin 12, (s12 = 0 ∨ s12 = 1 ↔ pairOf s12 = 0) ∧ (s12 = 2 ∨ s12 = 3 ↔ pairOf s12 = 1) ∧
      (s12 = 4 ∨ s12 = 5 ↔ pairOf s12 = 2) ∧ (s12 = 6 ∨ s12 = 7 ↔ pairOf s12 = 3) ∧
      (s12 = 8 ∨ s12 = 9 ↔ pairOf s12 = 4) ∧ (s12 = 10 ∨ s12 = 11 ↔ pairOf s12 = 5) := by decide

theorem witness_CoefficientsNotNegative : MachineArith (arith32 sqrt3Binary32) ∧ MachineArith (arith64 sqrt3Binary64) :=
  ⟨.binary32 _, .binary64 _⟩

/-- The bounds of the inscribed circle, which meet, and crossed ones. -/
theorem witness_SvpwmCommonModeClamp :
    (cmBounds realArith { d1 := 1 / 2, d2 := 1 / 2 }).v0min ≤ (cmBounds realArith { d1 := 1 / 2, d2 := 1 / 2 }).v0max ∧
    (cmBounds realArith { d1 := 1, d2 := 1 }).v0max < (cmBounds realArith { d1 := 1, d2 := 1 }).v0min := by
  norm_num [cmBounds, realArith]

/-- In binary64, with `v = +0`: bounds above it, bounds below it, and bounds that hold it at one end. -/
theorem witness_SvpwmCommonModeClamp_binary64 :
    let A := arith64 sqrt3Binary64
    let one : BitVec 64 := 0x3FF0000000000000#64
    let v := svpwmRaw A { d1 := 0#64, d2 := 0#64 }
    MachineArith A ∧ (A.lt one A.half = false ∧ A.lt v A.half = true) ∧
    (A.lt (A.neg A.half) (A.neg one) = false ∧ A.lt (A.neg A.half) v = true) ∧
    (A.lt A.half 0#64 = false ∧ A.lt v 0#64 = false ∧ A.lt A.half v = false) :=
  ⟨.binary64 _, by decide +kernel, by decide +kernel, by decide +kernel⟩

theorem witness_DutiesInRangeBetweenBounds : (0 : ℝ) ≤ ({ d1 := 0, d2 := 1 / 2 } : Coeff ℝ).d1 ∧
    (0 : ℝ) ≤ ({ d1 := 0, d2 := 1 / 2 } : Coeff ℝ).d2 := by norm_num

theorem witness_DutyAssignmentTable :
    dutyLadder exactArith { d1 := exactOfRat (1 / 2), d2 := exactOfRat 0 } (exactOfRat 0) =
      (exactOfRat (1 / 3), exactOfRat (1 / 3), exactOfRat (5 / 6)) := by decide +kernel

/-- Both ends of the range, and a value beyond each. -/
theorem witness_FinalClamp : (-1 : ℝ) < 0 ∧ (1 : ℝ) < 2 ∧ ((0 : ℝ) ≤ 0 ∧ (0 : ℝ) ≤ 1) ∧ ((0 : ℝ) ≤ 1 ∧ (1 : ℝ) ≤ 1) := by
  norm_num

/-- A command on the inscribed circle. -/
theorem witness_SvpwmIsMinMaxForm :
    max |(project realArith 0 1).ta| (max |(project realArith 0 1).tb| |(project realArith 0 1).tc|) ≤ 1 := by
  norm_num [project, realArith, abs_le]

/-- Every sector falls under exactly one of the two bounds. -/
theorem witness_ThirdHarmonicSelection :
    ∀ s12 : Fin 12, (s12 = 11 ∨ s12 = 0 ∨ s12 = 3 ∨ s12 = 4 ∨ s12 = 7 ∨ s12 = 8) ↔
      ¬ (s12 = 1 ∨ s12 = 2 ∨ s12 = 5 ∨ s12 = 6 ∨ s12 = 9 ∨ s12 = 10) := by decide

/-- The zero command selects V0min and the command at 270° selects V0max. -/
theorem witness_ThirdHarmonicHoldsOnePhase :
    ({ Config.default with clampDuty := false } : Config).clampDuty = false ∧
    thiIndex (classifyTree realArith (project realArith 0 0)).s12 % 2 = 0 ∧
    thiIndex (classifyTree realArith (project realArith 0 (-1))).s12 % 2 = 1 := by
  refine ⟨rfl, ?_, ?_⟩ <;> rw [classifyTree_real] <;> norm_num [project, realArith] <;> decide

theorem witness_ThirdHarmonicJump : pairOf 10 = 5 ∧ pairOf 11 = 5 ∧ (10 : Fin 12).val % 2 = 0 ∧ (11 : Fin 12).val % 2 = 1 := by
  decide

/-- An order of the free reals; and a command whose operands are two free reals runs. -/
theorem witness_ExactArithmeticRefinesReals :
    RealOrder.allZero.Represents (fun _ => 0) ∧
    nextHas (fun t => decide (t.lastUa = .real (exactFree 0) ∧ t.lastUb = .real (exactFree 1)) && t.resultValid)
      (exec (.modulateSvpwm (.real (exactFree 0)) (.real (exactFree 1))) (State.resetOf cfgReal [])) = true :=
  ⟨fun x => by
    rw [RealOrder.allZero, surdPos_iff, exactValue, termsValue_zero, add_zero], by decide +kernel⟩

/-- What cancels is computed: `x₃ < x₃ + 1`. -/
theorem test_free_reals_cancel :
    exactArith.lt (exactFree 3) (exactArith.add (exactFree 3) exactArith.one) = true := by decide +kernel

/-! ## Witnesses: the commands -/

theorem witness_ModulateCompletes :
    (cfg64 true 1).numFormat.holds (.b64 0x3FF0000000000000#64) = true ∧ (cfg64 true 1).numFormat.holds (.b64 0#64) = true ∧
    Accepted (cfg64 true 1) (.b64 0x3FF0000000000000#64) (.b64 0#64) :=
  ⟨rfl, rfl, .inr ⟨by decide, by decide⟩⟩

/-- The check off lets every operand through. -/
theorem witness_ModulateCompletes_unchecked : Accepted Config.default (.b64 0x7FF8000000000000#64) (.b64 0#64) := .inl rfl

/-- The source's first scenario has a finite path in every number format and in both modes. -/
theorem witness_SvpwmDefinedResult :
    InFormat State.reset.cfg (arith64 sqrt3Binary64) PortNum.b64 ∧
    Accepted State.reset.cfg (.b64 0x3FF0000000000000#64) (.b64 0#64) ∧
    FinitePath (arith64 sqrt3Binary64) State.reset.cfg .svpwm
      (classifyTree (arith64 sqrt3Binary64) (project (arith64 sqrt3Binary64) 0x3FF0000000000000#64 0#64)).s12
      0x3FF0000000000000#64 0#64 :=
  ⟨.binary64 _ rfl, .inl rfl, by unfold FinitePath; decide +kernel⟩

theorem witness_ThipwmDefinedResult :
    InFormat cfg32 (arith32 sqrt3Binary32) PortNum.b32 ∧ Accepted cfg32 (.b32 0#32) (.b32 0x3F800000#32) ∧
    FinitePath (arith32 sqrt3Binary32) cfg32 .thipwm
      (classifyTree (arith32 sqrt3Binary32) (project (arith32 sqrt3Binary32) 0#32 0x3F800000#32)).s12 0#32 0x3F800000#32 :=
  ⟨.binary32 _ rfl, .inl rfl, by unfold FinitePath; decide +kernel⟩

theorem witness_ThipwmDefinedResult_real :
    InFormat cfgReal exactArith PortNum.real ∧ Accepted cfgReal (.real (exactOfRat 0)) (.real (exactOfRat 1)) ∧
    FinitePath exactArith cfgReal .thipwm
      (classifyTree exactArith (project exactArith (exactOfRat 0) (exactOfRat 1))).s12 (exactOfRat 0) (exactOfRat 1) :=
  ⟨.real rfl, .inl rfl, by unfold FinitePath; decide +kernel⟩

/-- 95_test_vectors N1: an operand that is not finite; and N4: finite operands whose projections overflow. -/
theorem witness_NonfiniteCommandDraws :
    InFormat State.reset.cfg (arith64 sqrt3Binary64) PortNum.b64 ∧
    Accepted State.reset.cfg (.b64 0x7FF8000000000000#64) (.b64 0#64) ∧
    ((arith64 sqrt3Binary64).finite 0x7FF8000000000000#64 && (arith64 sqrt3Binary64).finite 0#64) = false ∧
    Accepted (cfg64 true 1) (.b64 0x7FEAB36D48E1ACF0#64) (.b64 0#64) ∧
    ¬ FinitePath (arith64 sqrt3Binary64) (cfg64 true 1) .svpwm
      (classifyTree (arith64 sqrt3Binary64) (project (arith64 sqrt3Binary64) 0x7FEAB36D48E1ACF0#64 0#64)).s12
      0x7FEAB36D48E1ACF0#64 0#64 :=
  ⟨.binary64 _ rfl, .inl rfl, by decide +kernel, .inr ⟨by decide, by decide⟩, by unfold FinitePath; decide +kernel⟩

/-- The largest finite `ub`: finite projections, and a duty that overflows, so that the sector is a draw too. -/
theorem witness_NonfiniteCommandDraws_duties :
    projFinite (arith64 sqrt3Binary64) (project (arith64 sqrt3Binary64) 0#64 0x7FEFFFFFFFFFFFFF#64) = true ∧
    (¬ FinitePath (arith64 sqrt3Binary64) State.reset.cfg .svpwm
      (classifyTree (arith64 sqrt3Binary64) (project (arith64 sqrt3Binary64) 0#64 0x7FEFFFFFFFFFFFFF#64)).s12 0#64
      0x7FEFFFFFFFFFFFFF#64) ∧
    nextHas (fun t => decide (t.draws = 4))
      (exec (.modulateSvpwm (.b64 0#64) (.b64 0x7FEFFFFFFFFFFFFF#64)) State.reset) = true :=
  ⟨by decide +kernel, by unfold FinitePath; decide +kernel, by decide +kernel⟩

theorem witness_InvalidInputOnlySetsError :
    (cfg64 true 1).numFormat.holds (.b64 0x7FF0000000000000#64) = true ∧ (cfg64 true 1).numFormat.holds (.b64 0#64) = true ∧
    (cfg64 true 1).inputCheck = true ∧ (numFinite (.b64 0x7FF0000000000000#64) && numFinite (.b64 0#64)) = false := by
  decide

theorem witness_ZeroCommandDuties :
    State.reset.cfg.numFormat = .binary64 sqrt3Binary64 ∧ (State.resetOf cfg32 []).cfg.numFormat = .binary32 sqrt3Binary32 ∧
    (State.resetOf cfgReal []).cfg.numFormat = .real := by decide

theorem witness_SourceScenarioOne : State.reset.cfg = Config.default := rfl

/-- Two states of one configuration, one fresh and one with results, and a command that draws nothing. -/
theorem witness_ResultIgnoresHistory :
    State.reset.cfg = (zeroDone Config.default []).cfg ∧ Accepted State.reset.cfg (.b64 0#64) (.b64 0#64) ∧
    ∃ t t', exec (modulateInstr .thipwm (.b64 0#64) (.b64 0#64)) State.reset = .next t ∧
      exec (modulateInstr .thipwm (.b64 0#64) (.b64 0#64)) (zeroDone Config.default []) = .next t' ∧
      t.draws = State.reset.draws :=
  ⟨rfl, .inl rfl, _, _, rfl, rfl, by decide +kernel⟩

/-- The zero command, whose path is finite. -/
theorem witness_SchemeOnlyChangesReport :
    InFormat cfgReal exactArith PortNum.real ∧ Accepted cfgReal (.real (exactOfRat 0)) (.real (exactOfRat 0)) ∧
    FinitePath exactArith cfgReal .svpwm
      (classifyTree exactArith (project exactArith (exactOfRat 0) (exactOfRat 0))).s12 (exactOfRat 0) (exactOfRat 0) :=
  ⟨.real rfl, .inl rfl, by unfold FinitePath; decide +kernel⟩

theorem witness_ThipwmIgnoresCrossedResult :
    ∃ t t', exec (.modulateThipwm (.b64 0#64) (.b64 0x4000000000000000#64)) State.reset = .next t ∧
      exec (.modulateThipwm (.b64 0#64) (.b64 0x4000000000000000#64))
        { State.reset with cfg := { State.reset.cfg with cmCrossed := .v0max } } = .next t' :=
  ⟨_, _, rfl, rfl⟩

theorem witness_ClampedDutiesInUnit :
    Accepted State.reset.cfg (.b64 0#64) (.b64 0x4000000000000000#64) ∧ State.reset.cfg.clampDuty = true ∧
    ∃ t, exec (modulateInstr .svpwm (.b64 0#64) (.b64 0x4000000000000000#64)) State.reset = .next t ∧
      t.draws = State.reset.draws :=
  ⟨.inl rfl, rfl, _, rfl, by decide +kernel⟩

/-! ## Witnesses: steps -/

/-- A command at `LATENCY = 1`, and an `IDLE` at `LATENCY = 3`. -/
theorem witness_StepRunsDecoded :
    let s := State.resetOf Config.default [hostStep (words64 0b10#2 0x3FF0000000000000#64 0#64) [.valid]]
    let s' := State.resetOf (cfg64 false 3) [hostStep (words64 0b01#2 0#64 0#64) []]
    (s.readsFault s.presented.reads = false ∧ s.presented.rst = false ∧ s.inFlight = none ∧ s.cfg.latency ≤ 1) ∧
    (s'.readsFault s'.presented.reads = false ∧ s'.presented.rst = false ∧ s'.inFlight = none ∧
      cmdStart s'.presented.words.cmd = false) := by decide

/-- Reset with a command presented and one in flight. -/
theorem witness_ResetStep :
    let s := { State.resetOf (cfg64 false 3) [resetStep] with inFlight := some (inFlightOne 1) }
    s.readsFault s.presented.reads = false ∧ s.presented.rst = true := by decide

theorem witness_AfterReset :
    portIsResult .sector = true ∧ Config.default.numFormat.holds (.b64 0#64) = true ∧
    Accepted Config.default (.b64 0#64) (.b64 0#64) := ⟨rfl, rfl, .inl rfl⟩

theorem witness_PortsShowRegisters : (zeroDone Config.default []).resultValid = true := rfl

theorem witness_ReadingHasNoEffect : (zeroDone Config.default []).readsFault OutPort.all = false := by decide

/-- `LATENCY = 3`: the accepting step and two in which the operands are held, and a result port that holds a value is
sampled. -/
theorem witness_ClockedCommandCompletes :
    let h := hostStep (words64 0b10#2 0x3FF0000000000000#64 0#64) [.valid]
    let g := hostStep (words64 0b00#2 0x3FF0000000000000#64 0#64) [.ma]
    let s := zeroDone (cfg64 false 3) (h :: ([g, g] ++ []))
    s.inFlight = none ∧ s.cfg.latency = 2 + 1 ∧ h.rst = false ∧ s.readsFault h.reads = false ∧
    cmdStart h.words.cmd = true ∧ h.words.wf s.cfg.numFormat = true ∧ [g, g].length = 2 ∧
    (∀ x ∈ [g, g], x.rst = false ∧ s.readsFault x.reads = false ∧
      InFlight.HeldBy { mode := cmdMode h.words.cmd, ua := h.words.ua, ub := h.words.ub, left := 2 } x.words) ∧
    s.host = h :: ([g, g] ++ []) := by
  refine ⟨rfl, rfl, rfl, by decide, by decide, by decide, rfl, ?_, rfl⟩
  intro x hx
  obtain rfl : x = hostStep (words64 0b00#2 0x3FF0000000000000#64 0#64) [.ma] := by simpa using hx
  exact ⟨rfl, by decide, by decide, by decide, not_not_intro rfl, not_not_intro rfl⟩

/-- A step that completes a command presented in it, one that completes a command in flight, and an idle one. -/
theorem witness_RegistersChangeTogether :
    nextHas (fun t => t.doneO) (step (State.reset.withFetchWord 8 0b10)) = true ∧
    nextHas (fun t => t.doneO) (step { State.resetOf (cfg64 false 3) [] with inFlight := some (inFlightOne 1) }) = true ∧
    nextHas (fun t => !t.doneO) (step { State.resetOf (cfg64 false 3) [] with inFlight := some (inFlightOne 2) }) = true := by
  decide +kernel

/-- A reset, a command that updates the registers, an idle step after one, and a rejected command. -/
theorem witness_ResultValidRule :
    nextHas (fun _ => true) (step (State.resetOf Config.default [resetStep])) = true ∧
    nextHas (fun t => t.doneO && !t.err) (step (State.reset.withFetchWord 8 0b11)) = true ∧
    nextHas (fun t => !t.doneO) (step (zeroDone Config.default [])) = true ∧
    nextHas (fun t => t.err)
      (step (zeroDone (cfg64 true 1) [hostStep (words64 0b10#2 0x7FF0000000000000#64 0#64) []])) = true := by
  decide +kernel

/-- With the check: an idle step, and steps that complete an accepted and a rejected command; without it,
a step; and a command in flight that completes. -/
theorem witness_LastErrRule :
    nextHas (fun t => !t.doneO) (step (zeroDone (cfg64 true 1) [])) = true ∧
    nextHas (fun t => t.doneO && !t.err) (step (zeroDone (cfg64 true 1) [hostStep (words64 0b10#2 0#64 0#64) []])) = true ∧
    nextHas (fun t => t.doneO && t.err)
      (step (zeroDone (cfg64 true 1) [hostStep (words64 0b10#2 0x7FF8000000000000#64 0#64) []])) = true ∧
    nextHas (fun _ => true) (step (State.resetOf (cfg64 false 1) [])) = true ∧
    nextHas (fun t => t.doneO && !t.err)
      (step { zeroDone (cfg64 true 3) [] with inFlight := some (inFlightOne 1) }) = true := by decide +kernel

theorem witness_ConfigurationIsFixed : nextHas (fun _ => true) (step State.reset) = true := by decide

/-- A state with results and a command in flight meets the invariant, and its quiet host keeps to the protocol. -/
theorem witness_ObedientHostNeverStops :
    State.Inv { zeroDone (cfg64 false 3) [] with inFlight := some (inFlightOne 2) } ∧
    State.HostObeys { zeroDone (cfg64 false 3) [] with inFlight := some (inFlightOne 2) } := by
  refine ⟨⟨by decide, by decide, by decide, by decide, by decide, by decide, show (11 : Nat) < 12 by decide,
    fun _ => rfl, ?_⟩, ⟨by decide, by decide, ?_⟩⟩
  · rintro p ⟨⟩
    exact ⟨rfl, rfl, by decide, by decide⟩
  · rintro p ⟨⟩ -
    exact ⟨by decide, by decide, by simp [NumChanged, inFlightOne, State.presented, zeroDone, State.resetOf, State.quietStep],
      by simp [NumChanged, inFlightOne, State.presented, zeroDone, State.resetOf, State.quietStep]⟩

/-- From that state a step answers a next state. -/
theorem witness_StepKeepsInvariant :
    nextHas (fun t => decide (t.inFlight = some (inFlightOne 1)))
      (step { zeroDone (cfg64 false 3) [] with inFlight := some (inFlightOne 2) }) = true := by decide

theorem witness_ResetMeetsInvariant : (cfg64 true 1).wf = true := by decide

end Sys2Proof.Tests
end

/-! # 00_scope: the clamp forms, and `REAL` against the real numbers -/

/-! ## The clamp forms (00_scope R13) -/

namespace Sys2Proof.Machine

/-- The ordered comparison of 00_scope R11 is transitive in every number format. -/
theorem MachineArith.lt_trans {α : Type} {A : Arith α} (hA : MachineArith A) {x y z : α} (hxy : A.lt x y = true)
    (hyz : A.lt y z = true) : A.lt x z = true := by
  cases hA with
  | binary32 sqrt3 => exact ieeeLt_trans binary32Layout hxy hyz
  | binary64 sqrt3 => exact ieeeLt_trans binary64Layout hxy hyz
  | real o =>
    obtain ⟨v, hv⟩ := o.from_real
    exact (exactLt_iff hv x z).mpr (((exactLt_iff hv x y).mp hxy).trans ((exactLt_iff hv y z).mp hyz))

/-- The clamp forms differ in which of their two tests comes first, so they agree unless both tests hold. -/
theorem clampLoFirst_eq_clampHiFirst {α : Type} (A : Arith α) {v lo hi : α}
    (h : ¬ (A.lt hi v = true ∧ A.lt v lo = true)) : clampLoFirst A v lo hi = clampHiFirst A v lo hi := by
  unfold clampLoFirst clampHiFirst
  by_cases hlo : A.lt v lo = true
  · have hhi : ¬ A.lt hi v = true := fun hhi => h ⟨hhi, hlo⟩
    rw [if_pos hlo, if_neg hhi, if_pos hlo]
  · rw [if_neg hlo, if_neg hlo]

/-- Settles O11: on ordered bounds no number is both above `hi` and below `lo`, for the comparison is transitive; between
crossed bounds each form answers the bound it tests first. -/
theorem clampFormsAgreeOnOrderedBounds : Obligations.ClampFormsAgreeOnOrderedBounds := by
  intro α A hA v lo hi
  refine ⟨fun hordered => clampLoFirst_eq_clampHiFirst A fun ⟨hhi, hlo⟩ => ?_, fun hhi hlo => ⟨if_pos hlo, if_pos hhi⟩⟩
  exact Bool.false_ne_true (hordered.symm.trans (hA.lt_trans hhi hlo))

end Sys2Proof.Machine

/-! ## Carrying the stages' records over by a function -/

namespace Sys2Proof

/-- The same projections with every number carried over by `f`. -/
def Proj.map {α β : Type} (f : α → β) (t : Proj α) : Proj β := { ta := f t.ta, tb := f t.tb, tc := f t.tc }

/-- The same coefficients with every number carried over by `f`. -/
def Coeff.map {α β : Type} (f : α → β) (d : Coeff α) : Coeff β := { d1 := f d.d1, d2 := f d.d2 }

/-- The same bounds with every number carried over by `f`. -/
def Bounds.map {α β : Type} (f : α → β) (b : Bounds α) : Bounds β := { v0min := f b.v0min, v0max := f b.v0max }

/-- The same duties with every number carried over by `f`. -/
def Duty.map {α β : Type} (f : α → β) (u : Duty α) : Duty β := { a := f u.a, b := f u.b, c := f u.c }

end Sys2Proof

/-! ## Two arithmetics whose operations agree compute the same

One commuting square for each stage of a command (40 to 44): running it and carrying the result over is carrying its
inputs over and running it. -/

namespace Sys2Proof.Machine

/-- `f` carries every number operation, comparison and literal of `A` to that of `B`. The draws are left out: they are
free values, which arithmetics need not share. -/
structure ArithHom {α β : Type} (f : α → β) (A : Arith α) (B : Arith β) : Prop where
  add : ∀ x y, B.add (f x) (f y) = f (A.add x y)
  sub : ∀ x y, B.sub (f x) (f y) = f (A.sub x y)
  neg : ∀ x, B.neg (f x) = f (A.neg x)
  mulSqrt3 : ∀ x, B.mulSqrt3 (f x) = f (A.mulSqrt3 x)
  mulTwo : ∀ x, B.mulTwo (f x) = f (A.mulTwo x)
  divTwo : ∀ x, B.divTwo (f x) = f (A.divTwo x)
  divThree : ∀ x, B.divThree (f x) = f (A.divThree x)
  divSix : ∀ x, B.divSix (f x) = f (A.divSix x)
  lt : ∀ x y, B.lt (f x) (f y) = A.lt x y
  zero : B.zero = f A.zero
  half : B.half = f A.half
  one : B.one = f A.one

/-- The third-harmonic common mode is one of the bounds, so any function carries it over. -/
theorem cmThi_map {α β : Type} (f : α → β) (s12 : Fin 12) (b : Bounds α) : cmThi s12 (b.map f) = f (cmThi s12 b) :=
  (apply_ite f _ _ _).symm

namespace ArithHom

variable {α β : Type} {f : α → β} {A : Arith α} {B : Arith β} (h : ArithHom f A B)
include h

theorem clampLoFirst_map (v lo hi : α) : clampLoFirst B (f v) (f lo) (f hi) = f (clampLoFirst A v lo hi) := by
  simp only [clampLoFirst, h.lt, apply_ite f]

theorem clampHiFirst_map (v lo hi : α) : clampHiFirst B (f v) (f lo) (f hi) = f (clampHiFirst A v lo hi) := by
  simp only [clampHiFirst, h.lt, apply_ite f]

theorem project_map (ua ub : α) : project B (f ua) (f ub) = (project A ua ub).map f := by
  simp only [project, Proj.map, h.mulSqrt3, h.neg, h.sub, h.divTwo]

theorem classifyTree_map (t : Proj α) : classifyTree B (t.map f) = classifyTree A t := by
  simp only [classifyTree, Proj.map, h.zero, h.lt]

theorem pairCoeff_map (p : Fin 6) (t : Proj α) : pairCoeff B p (t.map f) = (pairCoeff A p t).map f := by
  fin_cases p <;> simp only [pairCoeff, Proj.map, Coeff.map, h.neg]

theorem cmBounds_map (d : Coeff α) : cmBounds B (d.map f) = (cmBounds A d).map f := by
  simp only [cmBounds, Coeff.map, Bounds.map, h.half, h.mulTwo, h.divThree, h.neg, h.add, h.sub]

theorem cmSvpwm_map (crossed : CmCrossed) (d : Coeff α) (b : Bounds α) :
    cmSvpwm B crossed (d.map f) (b.map f) = f (cmSvpwm A crossed d b) := by
  have hraw : svpwmRaw B (d.map f) = f (svpwmRaw A d) := by simp only [svpwmRaw, Coeff.map, h.sub, h.divSix]
  cases crossed with
  | v0min => simpa only [cmSvpwm, hraw, Bounds.map] using h.clampLoFirst_map _ _ _
  | v0max => simpa only [cmSvpwm, hraw, Bounds.map] using h.clampHiFirst_map _ _ _

theorem commonMode_map (crossed : CmCrossed) (mode : Mode) (s12 : Fin 12) (d : Coeff α) (b : Bounds α) :
    commonMode B crossed mode s12 (d.map f) (b.map f) = f (commonMode A crossed mode s12 d b) := by
  cases mode with
  | svpwm => exact h.cmSvpwm_map crossed d b
  | thipwm => exact cmThi_map f s12 b

theorem dutyLadder_map (d : Coeff α) (vcm : α) :
    dutyLadder B (d.map f) (f vcm) = Prod.map f (Prod.map f f) (dutyLadder A d vcm) := by
  simp only [dutyLadder, Coeff.map, Prod.map, h.half, h.mulTwo, h.divThree, h.add, h.sub]

theorem dutyAssign_map (p : Fin 6) (d : Coeff α) (vcm : α) :
    dutyAssign B p (d.map f) (f vcm) = (dutyAssign A p d vcm).map f := by
  fin_cases p <;> simp only [dutyAssign, h.dutyLadder_map, Prod.map, Duty.map]

theorem finalDuty_map (clamp : Bool) (u : Duty α) : finalDuty B clamp (u.map f) = (finalDuty A clamp u).map f := by
  cases clamp with
  | false => rfl
  | true => simp only [finalDuty, Duty.map, clampUnit, h.zero, h.one, h.clampLoFirst_map, if_true]

end ArithHom

/-! ## Commands whose every number is finite -/

/-- The sectors of a command, where no number can be but finite. -/
theorem classify_of_finite {α : Type} {A : Arith α} (hA : ∀ x, A.finite x = true) (t : Proj α) (draws : Nat) :
    classify A t draws = (classifyTree A t, draws) := by
  simp only [classify, projFinite, hA, Bool.and_self, if_true]

/-- One command, where no number can be but finite: the stages in turn, and no draw. -/
theorem modulation_of_finite {α : Type} {A : Arith α} (hA : ∀ x, A.finite x = true) (c : Config) (mode : Mode)
    (draws : Nat) (ua ub : α) :
    modulation A c mode draws ua ub =
      let t := project A ua ub
      let k := classifyTree A t
      let d := pairCoeff A (pairOf k.s12) t
      let vcm := commonMode A c.cmCrossed mode k.s12 d (cmBounds A d)
      { sectors := k, duty := finalDuty A c.clampDuty (dutyAssign A (pairOf k.s12) d vcm), draws := draws } := by
  simp only [modulation, classify_of_finite hA, allFinite, projFinite, hA, Bool.and_self, if_true]

/-- The stages' squares side by side: a command computes on the numbers carried over what it computes on the numbers. -/
theorem ArithHom.modulation_map {α β : Type} {f : α → β} {A : Arith α} {B : Arith β} (h : ArithHom f A B)
    (hA : ∀ x, A.finite x = true) (hB : ∀ y, B.finite y = true) (c : Config) (mode : Mode) (draws : Nat) (ua ub : α) :
    (modulation A c mode draws ua ub).map f = modulation B c mode draws (f ua) (f ub) := by
  simp only [modulation_of_finite hA, modulation_of_finite hB, h.project_map, h.classifyTree_map, h.pairCoeff_map,
    h.cmBounds_map, h.commonMode_map, h.dutyAssign_map, h.finalDuty_map]
  rfl

/-! ## `REAL` and the real numbers (00_scope R7, log 4) -/

/-- The operations of `REAL` are those of ℝ on the real numbers that exact numbers stand for. -/
theorem exactValue_arithHom {o : RealOrder} {v : Nat → ℝ} (h : o.Represents v) :
    ArithHom (exactValue v) (exactArithOf o) realArith where
  add x y := (exactValue_add v x y).symm
  sub x y := (exactValue_sub v x y).symm
  neg x := (exactValue_neg v x).symm
  mulSqrt3 x := by simp [realArith, exactArithOf]
  mulTwo x := by simp [realArith, exactArithOf]
  divTwo x := by simp [realArith, exactArithOf, Rat.mkRat_eq_div, div_eq_inv_mul]
  divThree x := by simp [realArith, exactArithOf, Rat.mkRat_eq_div, div_eq_inv_mul]
  divSix x := by simp [realArith, exactArithOf, Rat.mkRat_eq_div, div_eq_inv_mul]
  lt x y := (exactArithOf_lt h x y).symm
  zero := by simp [realArith, exactArithOf]
  half := by simp [realArith, exactArithOf, Rat.mkRat_eq_div]
  one := by simp [realArith, exactArithOf]

/-- The order in which the free reals are the real numbers `v 0, v 1, …`. -/
noncomputable def RealOrder.ofReals (v : Nat → ℝ) : RealOrder where
  positive x := decide (0 < exactValue v x)
  from_real := ⟨v, fun _ => decide_eq_true_iff⟩

theorem RealOrder.ofReals_represents (v : Nat → ℝ) : (RealOrder.ofReals v).Represents v :=
  fun _ => decide_eq_true_iff

@[simp] theorem exactValue_free (v : Nat → ℝ) (n : Nat) : exactValue v (exactFree n) = v n := by
  simp [exactValue, exactFree, termsValue_replicate_zero, termsValue]

/-- Settles O33: `exactValue v` carries the operations of `REAL` to those of ℝ, hence every stage, and in `REAL` no
command draws. -/
theorem exactArithmeticRefinesReals : Obligations.ExactArithmeticRefinesReals := by
  refine ⟨fun o v hv c mode n ua ub => ?_, fun v => ⟨⟨.ofReals v, RealOrder.ofReals_represents v⟩, fun n => ?_⟩, rfl⟩
  · exact (exactValue_arithHom hv).modulation_map (fun _ => rfl) (fun _ => rfl) c mode n ua ub
  · exact ⟨exactValue_free v n, rfl⟩

end Sys2Proof.Machine

/-! # 10_state: the ports, the status bits, and what a result rests on -/

/-! ## The output ports (10_state R44, R45) -/

namespace Sys2Proof.Machine

/-- A sample of a state whose results are valid never faults. -/
theorem readPort_of_valid {s : State} (h : s.resultValid = true) (p : OutPort) : s.readPort p = .ok (s.portValue p) := by
  simp [State.readPort, h]

/-- Settles O51: no sample faults, and what each port then shows is its register. -/
theorem portsShowRegisters : Obligations.PortsShowRegisters := by
  intro s hv
  simp only [readPort_of_valid hv, State.portValue, hv, and_self]

/-! ## The three outcomes of a step -/

theorem State.setInFlight_eq_self {s : State} {p : Option InFlight} (h : s.inFlight = p) : s.setInFlight p = s := by
  subst h; rfl

/-- The command that the coming step can complete: the one in flight, or else the one presented. -/
inductive State.Due (s : State) : Mode → PortNum → PortNum → Prop
  | flying (p : InFlight) (h : s.inFlight = some p) : s.Due p.mode p.ua p.ub
  | presented (h : s.inFlight = none) (hstart : cmdStart s.presented.words.cmd = true) :
      s.Due (cmdMode s.presented.words.cmd) s.presented.words.ua s.presented.words.ub

/-- A step resets the block; or completes no command, which changes `done_o` and what is in flight alone; or completes
the command that is due. -/
theorem step_outcomes {s t : State} (h : step s = .next t) :
    (s.presented.rst = true ∧ t = s.hostAdvance.applyReset) ∨
    (s.presented.rst = false ∧ ∃ p, t = (s.hostAdvance.setInFlight p).setDone false) ∨
    (s.presented.rst = false ∧ ∃ mode ua ub, s.Due mode ua ub ∧
      modulate mode ua ub (s.hostAdvance.setInFlight none) = .next t) := by
  obtain ⟨-, hreset | ⟨hrst, p, hp, hc⟩ | ⟨hrst, -, -, -, ha⟩ | ⟨hrst, hp, -, ht⟩ | ⟨hrst, hp, hstart, -, hm⟩⟩ :=
    step_next_cases h
  · exact .inl hreset
  · obtain ⟨-, -, ⟨-, hm⟩ | ⟨-, ht⟩⟩ := flightCycle_next hc
    · exact .inr (.inr ⟨hrst, _, _, _, .flying p hp, hm⟩)
    · exact .inr (.inl ⟨hrst, _, ht⟩)
  · exact .inr (.inl ⟨hrst, _, (accept_next ha).2⟩)
  · exact .inr (.inl ⟨hrst, none, by rwa [State.setInFlight_eq_self (s := s.hostAdvance) hp]⟩)
  · exact .inr (.inr ⟨hrst, _, _, _, .presented hp hstart, by rwa [State.setInFlight_eq_self (s := s.hostAdvance) hp]⟩)

/-! ## The status bits (10_state R39, R40) -/

/-- Without the check `LAST_ERR` is hardwired to 0. -/
theorem State.err_of_unchecked {s : State} (h : s.cfg.inputCheck = false) : s.err = false := by simp [State.err, h]

/-- The status bits a command leaves: it shows `done_o`, reads in `LAST_ERR` whether the check turned it away, and sets
`RESULT_VALID` unless it was; without the check it leaves the storage of `LAST_ERR`. -/
theorem modulate_status {mode : Mode} {ua ub : PortNum} {s t : State} (h : modulate mode ua ub s = .next t) :
    t.doneO = true ∧ t.err = (s.cfg.inputCheck && !(numFinite ua && numFinite ub)) ∧
    t.resultValid = (s.resultValid || !t.err) ∧ (s.cfg.inputCheck = false → t.lastErr = s.lastErr) := by
  obtain ⟨-, -, ⟨hcheck, hfin, rfl⟩ | ⟨hacc, m, rfl, -⟩⟩ := modulate_next_cases h
  · simp [hcheck, hfin]
  · have herr : (s.cfg.inputCheck && !(numFinite ua && numFinite ub)) = false := by
      rcases hacc with hcheck | ⟨ha, hb⟩
      · simp [hcheck]
      · simp [ha, hb]
    exact ⟨rfl, (State.commit_err ..).trans herr.symm, by simp, by simp +contextual⟩

/-- Settles O55: a reset clears the bit, a step that completes nothing keeps it, and a completed command sets it unless
the check turned it away. -/
theorem resultValidRule : Obligations.ResultValidRule := by
  intro s t h
  obtain ⟨hrst, rfl⟩ | ⟨hrst, p, rfl⟩ | ⟨hrst, mode, ua, ub, -, hm⟩ := step_outcomes h
  · simp [hrst]
  · simp [hrst]
  · obtain ⟨hdone, -, hvalid, -⟩ := modulate_status hm
    simp +contextual [hrst, hdone, hvalid]

/-- Settles O56: a reset clears the bit, a step that completes nothing keeps it, and a completed command, in flight or
presented, leaves in it what the check says of its own operands. -/
theorem lastErrRule : Obligations.LastErrRule := by
  intro s t h
  obtain ⟨hrst, rfl⟩ | ⟨hrst, p, rfl⟩ | ⟨hrst, mode, ua, ub, hdue, hm⟩ := step_outcomes h
  · simp +contextual [hrst, State.err_of_unchecked]
  · simp +contextual [hrst, State.err_of_unchecked]
  · obtain ⟨hdone, herr, -, hkeep⟩ := modulate_status hm
    simp only [State.setInFlight_cfg, State.hostAdvance_cfg] at herr hkeep
    refine ⟨by simp [hrst], fun hc => ⟨State.err_of_unchecked hc, fun _ => hkeep hc⟩, by simp [hdone], ?_, ?_⟩
    · intro hc _ hnone _
      cases hdue with
      | flying p hp => cases hnone.symm.trans hp
      | presented => rw [herr, hc, Bool.true_and]
    · intro c hsome hc _ _
      cases hdue with
      | flying p hp =>
        obtain rfl : c = p := Option.some.inj (hsome.symm.trans hp)
        rw [herr, hc, Bool.true_and]
      | presented hp => cases hp.symm.trans hsome

/-! ## One modulation, by its path (44 R174, R178) -/

section

variable {α : Type} {A : Arith α} {c : Config} {mode : Mode} {ua ub : α}

theorem projFinite_of_allFinite {t : Proj α} {b : Bounds α} {vcm : α} {u : Duty α} (h : allFinite A t b vcm u = true) :
    projFinite A t = true := by
  simp only [allFinite, Bool.and_eq_true, and_assoc] at h
  exact h.1

/-- A command whose values are all finite: the stages in turn, and no draw. -/
theorem modulation_of_finitePath (h : FinitePath A c mode (classifyTree A (project A ua ub)).s12 ua ub) (draws : Nat) :
    modulation A c mode draws ua ub =
      let t := project A ua ub
      let k := classifyTree A t
      let d := pairCoeff A (pairOf k.s12) t
      let vcm := commonMode A c.cmCrossed mode k.s12 d (cmBounds A d)
      { sectors := k, duty := finalDuty A c.clampDuty (dutyAssign A (pairOf k.s12) d vcm), draws := draws } := by
  have hk : classify A (project A ua ub) draws = (classifyTree A (project A ua ub), draws) :=
    if_pos (projFinite_of_allFinite h)
  simp only [modulation, hk]
  exact if_pos h

/-- A command with a value that is not finite, a projection or a later one: four draws. -/
theorem modulation_of_not_finitePath (h : ¬ FinitePath A c mode (classifyTree A (project A ua ub)).s12 ua ub)
    (draws : Nat) :
    modulation A c mode draws ua ub =
      { sectors := drawSectors draws, duty := drawDuty A (draws + 1), draws := draws + 4 } := by
  by_cases hp : projFinite A (project A ua ub) = true
  · have hk : classify A (project A ua ub) draws = (classifyTree A (project A ua ub), draws) := if_pos hp
    simp only [modulation, hk]
    exact if_neg h
  · exact if_neg fun hall => hp (projFinite_of_allFinite hall)

/-- A command took no free value exactly when every value on its path is finite. -/
theorem modulation_draws_eq_iff (draws : Nat) :
    (modulation A c mode draws ua ub).draws = draws ↔
      FinitePath A c mode (classifyTree A (project A ua ub)).s12 ua ub := by
  by_cases h : FinitePath A c mode (classifyTree A (project A ua ub)).s12 ua ub
  · simp [modulation_of_finitePath h, h]
  · simp [modulation_of_not_finitePath h, h]

/-- The results of a command that takes no free value do not depend on the count of those taken before. -/
theorem modulation_eq_of_no_draw {draws : Nat} (h : (modulation A c mode draws ua ub).draws = draws) (draws' : Nat) :
    modulation A c mode draws' ua ub = { modulation A c mode draws ua ub with draws := draws' } := by
  have hpath := (modulation_draws_eq_iff draws).mp h
  rw [modulation_of_finitePath hpath, modulation_of_finitePath hpath]

end

/-! ## `modulate` in the configured number format -/

/-- A `modulate` that answers a next state had operands of the configured format. -/
theorem modulate_next_inFormat {mode : Mode} {ua ub : PortNum} {s t : State} (h : modulate mode ua ub s = .next t) :
    ∃ (α : Type) (A : Arith α) (toNum : α → PortNum) (a b : α),
      InFormat s.cfg A toNum ∧ ua = toNum a ∧ ub = toNum b := by
  obtain ⟨ha, hb, -⟩ := modulate_next_cases h
  obtain ⟨c, a, b, hf, rfl, rfl⟩ | ⟨c, a, b, hf, rfl, rfl⟩ | ⟨a, b, hf, rfl, rfl⟩ := readOperands_of_holds ha hb
  · exact ⟨_, _, _, a, b, .binary32 c hf, rfl, rfl⟩
  · exact ⟨_, _, _, a, b, .binary64 c hf, rfl, rfl⟩
  · exact ⟨_, _, _, a, b, .real hf, rfl, rfl⟩

theorem InFormat.numFinite_toNum {c : Config} {α : Type} {A : Arith α} {toNum : α → PortNum} (h : InFormat c A toNum)
    (x : α) : numFinite (toNum x) = A.finite x := by cases h <;> rfl

theorem InFormat.modulate_eq {s : State} {α : Type} {A : Arith α} {toNum : α → PortNum} (h : InFormat s.cfg A toNum)
    (mode : Mode) (a b : α) : modulate mode (toNum a) (toNum b) s = .next (modulateIn A toNum mode a b s) := by
  cases h with
  | binary32 c hf => simp only [modulate, hf, readOperands]
  | binary64 c hf => simp only [modulate, hf, readOperands]
  | real hf => simp only [modulate, hf, readOperands]

/-- A command that the check lets through writes the results of its modulation. -/
theorem InFormat.modulate_of_accepted {s : State} {α : Type} {A : Arith α} {toNum : α → PortNum}
    (h : InFormat s.cfg A toNum) {a b : α} (hacc : Accepted s.cfg (toNum a) (toNum b)) (mode : Mode) :
    modulate mode (toNum a) (toNum b) s =
      .next (s.commit (toNum a) (toNum b) ((modulation A s.cfg mode s.draws a b).map toNum)) := by
  have hpass : ¬ (s.cfg.inputCheck && !(A.finite a && A.finite b)) = true := by
    rw [Accepted, h.numFinite_toNum, h.numFinite_toNum] at hacc
    rcases hacc with hcheck | ⟨ha, hb⟩
    · simp [hcheck]
    · simp [ha, hb]
  rw [h.modulate_eq, modulateIn, if_neg hpass]

/-! ## What a result rests on (10_state R46, 44 R180) -/

/-- Settles O42: both states write the results of one modulation, and without a draw these do not depend on the one part
of the state that it reads, the count of the free values taken before. -/
theorem resultIgnoresHistory : Obligations.ResultIgnoresHistory := by
  intro s s' t t' mode ua ub hcfg hacc h h' hdraws
  rw [exec_modulateInstr] at h h'
  obtain ⟨α, A, toNum, a, b, hA, rfl, rfl⟩ := modulate_next_inFormat h
  rw [hA.modulate_of_accepted hacc, Host.Outcome.next.injEq] at h
  rw [hcfg] at hA hacc
  rw [hA.modulate_of_accepted hacc, ← hcfg, Host.Outcome.next.injEq] at h'
  subst h h'
  have hnone : (modulation A s.cfg mode s.draws a b).draws = s.draws := hdraws
  rw [modulation_eq_of_no_draw hnone s'.draws]
  exact ⟨rfl, rfl, by simp [Modulation.map, hcfg], rfl, rfl, rfl, rfl, by simp⟩

end Sys2Proof.Machine

/-! # 20_memory, 60_exceptions, 70_reset_and_hazards: the stops of a step, and the clocked command -/

/-! ## What each part of a step can fault for (60 R206, 70 R224, R226) -/

namespace Sys2Proof.Machine

theorem readsFault_eq_true_iff (s : State) (ports : List OutPort) :
    s.readsFault ports = true ↔ s.resultValid = false ∧ ∃ p ∈ ports, portIsResult p = true := by
  simp [State.readsFault, and_comm]

theorem readsFault_eq_false_iff (s : State) (ports : List OutPort) :
    s.readsFault ports = false ↔ s.resultValid = true ∨ ∀ p ∈ ports, portIsResult p = false := by
  rw [← Bool.not_eq_true, readsFault_eq_true_iff]
  simp [imp_iff_not_or]

/-- No command faults. -/
theorem exec_ne_fault (i : Instr) (s : State) (r : Fault) : exec i s ≠ .fault r := by
  obtain ⟨-, h⟩ | ⟨mode, ua, ub, -, h⟩ := exec_cases i s
  · simp [h]
  · exact h ▸ modulate_ne_fault mode ua ub s r

/-- Accepting a command never faults. -/
theorem accept_ne_fault (s : State) (w : CmdWords) (r : Fault) : s.accept w ≠ .fault r := by
  unfold State.accept
  split <;> simp

/-- The operands of a command in flight have changed: its mode, or the value of one of them. -/
theorem held_eq_false_iff (p : InFlight) (w : CmdWords) :
    p.held w = false ↔ cmdMode w.cmd ≠ p.mode ∨ NumChanged p.ua w.ua ∨ NumChanged p.ub w.ub := by
  rw [← Bool.not_eq_true, held_iff]
  tauto

/-- A cycle of a command in flight faults for a start, and without one for a change of the operands. -/
theorem flightCycle_eq_fault_iff (s : State) (p : InFlight) (w : CmdWords) (r : Fault) :
    s.flightCycle p w = .fault r ↔
      (r = .startWhileBusy ∧ cmdStart w.cmd = true) ∨
      (r = .operandsChanged ∧ cmdStart w.cmd = false ∧ p.held w = false) := by
  unfold State.flightCycle
  cases hstart : cmdStart w.cmd with
  | true => simpa using eq_comm
  | false =>
    cases hheld : p.held w with
    | false => simpa using eq_comm
    | true => by_cases hlast : p.left ≤ 1 <;> simp [hlast, modulate_ne_fault]

/-- The block's part of a step faults in a cycle of the command in flight alone. -/
theorem cycle_eq_fault_iff (s : State) (h : HostStep) (r : Fault) :
    s.cycle h = .fault r ↔ h.rst = false ∧ ∃ c, s.inFlight = some c ∧ s.flightCycle c h.words = .fault r := by
  unfold State.cycle
  cases hrst : h.rst with
  | true => simp
  | false =>
    cases hp : s.inFlight with
    | some p => simp
    | none =>
      by_cases hclocked : (cmdStart h.words.cmd && decide (1 < s.cfg.latency)) = true
      · simp [hclocked, accept_ne_fault]
      · simp [hclocked, exec_ne_fault]

/-- A step whose samples show ports that hold values is the block's part of it. -/
theorem step_of_readable {s : State} (h : s.readsFault s.presented.reads = false) :
    step s = s.hostAdvance.cycle s.presented := by
  simp [step, State.hostCycle, h]

theorem step_of_readsFault {s : State} (h : s.readsFault s.presented.reads = true) : step s = .fault .readUnwritten := by
  simp [step, State.hostCycle, h]

/-- A step faults for its samples, and if not for them in the block's part of it. -/
theorem step_eq_fault_iff (s : State) (r : Fault) :
    step s = .fault r ↔
      (r = .readUnwritten ∧ s.readsFault s.presented.reads = true) ∨
      (s.readsFault s.presented.reads = false ∧ s.hostAdvance.cycle s.presented = .fault r) := by
  cases h : s.readsFault s.presented.reads with
  | true => simp [step_of_readsFault h, eq_comm]
  | false => simp [step_of_readable h]

/-- Settles O50: the samples come first, then in the block's part, unless it is a reset, the command in flight: a start,
and only without one a change of its operands. -/
theorem faultCauses : Obligations.FaultCauses := by
  intro s r
  simp only [step_eq_fault_iff, readsFault_eq_true_iff, readsFault_eq_false_iff, cycle_eq_fault_iff,
    State.hostAdvance_inFlight, flightCycle_eq_fault_iff, held_eq_false_iff]

/-! ## The clocked command (70 R224, R226) -/

theorem decodeWords_of_start {w : CmdWords} (h : cmdStart w.cmd = true) :
    decodeWords w = modulateInstr (cmdMode w.cmd) w.ua w.ub := by
  simp [decodeWords, h]

/-- A cycle of a command in flight whose operands are held completes it, if it is its last, and else counts. -/
theorem flightCycle_of_heldBy {p : InFlight} {w : CmdWords} (h : p.HeldBy w) (s : State) :
    s.flightCycle p w =
      if p.left ≤ 1 then modulate p.mode p.ua p.ub (s.setInFlight none)
      else .next ((s.setInFlight (some { p with left := p.left - 1 })).setDone false) := by
  have hheld : p.held w = true := (held_iff p w).mpr ⟨h.mode, h.ua, h.ub⟩
  simp [State.flightCycle, h.noStart, hheld]

/-- A run of one step is the step. -/
theorem core_run_one (s : State) : Sys2Proof.core.run 1 s = step s := by
  simp only [Host.Core.run, Sys2Proof.core]
  cases step s <;> rfl

theorem core_run_succ {s t : State} (h : step s = .next t) (k : Nat) :
    Sys2Proof.core.run (k + 1) s = Sys2Proof.core.run k t := by
  simp only [Host.Core.run, Sys2Proof.core, h]

/-- A step without a faulting sample is the block's part of it, on the state whose host has moved on. -/
theorem step_of_host {s : State} {h : HostStep} {rest : List HostStep} (hhost : s.host = h :: rest)
    (hreads : s.readsFault h.reads = false) : step s = ({ s with host := rest } : State).cycle h := by
  have hpres : s.presented = h := by simp [State.presented, hhost]
  rw [step_of_readable (by rwa [hpres]), hpres, State.hostAdvance, hhost, List.tail_cons]

/-- `s` with the command `p` in flight, `done_o` at 0 and its host about to present `hosts`. -/
def State.flying (s : State) (p : InFlight) (hosts : List HostStep) : State :=
  { s with inFlight := some p, host := hosts, doneO := false }

/-- The host's step `g` keeps the command `p` of `s` in flight: no reset, no sample that faults, and the operands held
(70 R220, R223, R226). -/
structure KeepsFlight (s : State) (p : InFlight) (g : HostStep) : Prop where
  noReset  : g.rst = false
  readable : s.readsFault g.reads = false
  held     : p.HeldBy g.words

/-- Keeping a command in flight does not depend on the cycles it has left. -/
theorem KeepsFlight.withLeft {s : State} {p : InFlight} {g : HostStep} (h : KeepsFlight s p g) (left : Nat) :
    KeepsFlight s { p with left := left } g :=
  ⟨h.noReset, h.readable, h.held.noStart, h.held.mode, h.held.ua, h.held.ub⟩

/-- A step that keeps a command in flight completes it, if it is its last, and else counts. -/
theorem step_flying {s : State} {p : InFlight} {g : HostStep} (hg : KeepsFlight s p g) (rest : List HostStep) :
    step (s.flying p (g :: rest)) =
      if p.left ≤ 1 then modulate p.mode p.ua p.ub { s with inFlight := none, host := rest }
      else .next (s.flying { p with left := p.left - 1 } rest) := by
  have hstep : step (s.flying p (g :: rest)) = (s.flying p rest).cycle g := step_of_host rfl hg.readable
  have hcycle : (s.flying p rest).cycle g = (s.flying p rest).flightCycle p g.words := by
    simp only [State.cycle, hg.noReset, Bool.false_eq_true, if_false, State.flying]
  rw [hstep, hcycle, flightCycle_of_heldBy hg.held]
  rfl

/-- A command kept in flight for as many steps as it has left completes in the last of them. -/
theorem run_flying {s : State} {p : InFlight} {g : HostStep} {held : List HostStep} (rest : List HostStep)
    (hleft : p.left = held.length + 1) (hkeeps : ∀ x ∈ g :: held, KeepsFlight s p x) :
    Sys2Proof.core.run (held.length + 1) (s.flying p (g :: (held ++ rest))) =
      modulate p.mode p.ua p.ub { s with inFlight := none, host := rest } := by
  induction held generalizing p g with
  | nil =>
    have hlast : p.left ≤ 1 := hleft.le
    have hstep := step_flying (hkeeps g List.mem_cons_self) rest
    rw [if_pos hlast] at hstep
    exact (core_run_one _).trans hstep
  | cons g' held ih =>
    have hmore : ¬ p.left ≤ 1 := by simp [hleft]
    have hstep := step_flying (hkeeps g List.mem_cons_self) (g' :: (held ++ rest))
    rw [if_neg hmore] at hstep
    exact (core_run_succ hstep _).trans
      (ih (Nat.sub_eq_of_eq_add hleft) fun x hx => (hkeeps x (List.mem_cons_of_mem g hx)).withLeft _)

/-- A step that presents a command to an idle block completes it with `LATENCY = 1`, and else accepts it. -/
theorem step_of_start {s : State} {h : HostStep} {rest : List HostStep} (hhost : s.host = h :: rest)
    (hidle : s.inFlight = none) (hrst : h.rst = false) (hreads : s.readsFault h.reads = false)
    (hstart : cmdStart h.words.cmd = true) (hwf : h.words.wf s.cfg.numFormat = true) :
    step s =
      if s.cfg.latency ≤ 1 then modulate (cmdMode h.words.cmd) h.words.ua h.words.ub
        { s with inFlight := none, host := rest }
      else .next (s.flying
        { mode := cmdMode h.words.cmd, ua := h.words.ua, ub := h.words.ub, left := s.cfg.latency - 1 } rest) := by
  rw [step_of_host hhost hreads]
  by_cases hone : s.cfg.latency ≤ 1
  · simp [State.cycle, hrst, hidle, hstart, decodeWords_of_start hstart, hone]
  · simp [State.cycle, hrst, hidle, hstart, hone, State.accept, hwf, State.flying, State.setInFlight, State.setDone]

/-- Settles O53: with `LATENCY = 1` the one step is the command; else the first step accepts it, the others keep it in
flight, and the last completes it. -/
theorem clockedCommandCompletes : Obligations.ClockedCommandCompletes := by
  intro s h held rest n hidle hlat hrst hreads hstart hwf hlen hheld hhost
  have hfirst := step_of_start hhost hidle hrst hreads hstart hwf
  rw [decodeWords_of_start hstart, exec_modulateInstr, hidle]
  subst hlen
  cases held with
  | nil =>
    have hone : s.cfg.latency ≤ 1 := hlat.le
    rw [if_pos hone] at hfirst
    exact (core_run_one s).trans hfirst
  | cons g held =>
    have hclocked : ¬ s.cfg.latency ≤ 1 := by simp [hlat]
    rw [if_neg hclocked, hlat] at hfirst
    have hkeeps : ∀ x ∈ g :: held, KeepsFlight s _ x := fun x hx =>
      have ⟨hnoReset, hreadable, hheldBy⟩ := hheld x hx
      ⟨hnoReset, hreadable, hheldBy⟩
    exact (core_run_succ hfirst _).trans (run_flying rest rfl hkeeps)

end Sys2Proof.Machine

/-! # 30_encoding: the opcode map, the length of a frame, and the lines of a host program -/

/-! ## Command words and frames (30_encoding R80, R87, R89) -/

namespace Sys2Proof

/-- Settles O3: each written word is the `cmdOf` of its two fields, so its start bit tells whether it is a command,
and its mode bit which. -/
theorem opcodeMap : Obligations.OpcodeMap := fun ua ub =>
  ⟨decodeWords_idle .svpwm ua ub, decodeWords_idle .thipwm ua ub,
    decodeWords_start .svpwm ua ub, decodeWords_start .thipwm ua ub⟩

/-- A frame is accepted for its shape alone; its words then decode to some command, whichever they are. -/
theorem decodeFrame_eq_ok_iff (f : NumFormat) (len frame : Nat) (i : Instr) :
    decodeFrame f len frame = .ok i ↔ ∃ width, f.width = some width ∧ len = 2 + 2 * width ∧ frame < 2 ^ len ∧
      decodeWords (frameWords f width frame) = i := by
  unfold decodeFrame
  cases f.width with
  | none => simp
  | some width => simp [ite_eq_iff, and_assoc]

/-- Settles O4: the shape is all that `decodeFrame` asks for, and `REAL` has no width. -/
theorem frameLengthChecked : Obligations.FrameLengthChecked := by
  intro f len n
  simp only [decodeFrame_eq_ok_iff]
  constructor
  · rintro ⟨-, width, hwidth, hlen, hn, -⟩
    exact ⟨width, hwidth, hlen, hn⟩
  · rintro ⟨width, hwidth, hlen, hn⟩
    exact ⟨_, width, hwidth, hlen, hn, rfl⟩

/-! ## Bit patterns of a `Num` (20_memory R61) -/

/-- The pattern of the number that the low `W` bits of `n` encode is those bits. -/
theorem bitsOfNum_numOfBits {f : NumFormat} {width : Nat} (h : f.width = some width) (n : Nat) :
    bitsOfNum (numOfBits f n) = some (n % 2 ^ width) := by
  cases f <;> cases h <;> rfl

/-- A number of the format is the one its pattern encodes. -/
theorem numOfBits_bitsOfNum {f : NumFormat} {x : PortNum} {n : Nat} (hx : f.holds x = true)
    (hn : bitsOfNum x = some n) : numOfBits f n = x := by
  rcases Machine.holds_cases hx with ⟨c, w, rfl, rfl⟩ | ⟨c, w, rfl, rfl⟩ | ⟨e, rfl, rfl⟩ <;> cases hn
  · exact congrArg PortNum.b32 (BitVec.ofNat_toNat 32 w)
  · exact congrArg PortNum.b64 (BitVec.ofNat_toNat 64 w)

/-- A number of the format is the one that a pattern of `W` bits encodes exactly when its pattern is that one. -/
theorem numOfBits_eq_iff {f : NumFormat} {width : Nat} (h : f.width = some width) (n : Nat) (x : PortNum) :
    (n < 2 ^ width ∧ numOfBits f n = x) ↔ f.holds x = true ∧ bitsOfNum x = some n := by
  constructor
  · rintro ⟨hn, rfl⟩
    exact ⟨holds_numOfBits f n, by rw [bitsOfNum_numOfBits h, Nat.mod_eq_of_lt hn]⟩
  · rintro ⟨hx, hbits⟩
    have hnum := numOfBits_bitsOfNum hx hbits
    rw [← hnum, bitsOfNum_numOfBits h] at hbits
    have hmod : n % 2 ^ width = n := Option.some.inj hbits
    exact ⟨hmod ▸ Nat.mod_lt n (Nat.two_pow_pos width), hnum⟩

/-- The host action `READ` samples every port there is (30_encoding R90). -/
theorem OutPort.mem_all (p : OutPort) : p ∈ OutPort.all := by
  cases p <;> decide

end Sys2Proof

/-! ## Operands of a host program (30_encoding R90) -/

namespace Sys2Proof.Machine

/-- `decimalRat digits e` is `digits · 10^e`. -/
theorem decimalRat_eq (digits : Nat) (e : Int) : decimalRat digits e = digits * (10 : ℚ) ^ e := by
  cases e with
  | ofNat k => simp [decimalRat, Rat.mkRat_eq_div]
  | negSucc k => simp [decimalRat, Rat.mkRat_eq_div, zpow_negSucc, div_eq_mul_inv]

theorem signedRat_eq_mul (neg : Bool) (mag : ℚ) : signedRat neg mag = (if neg then -1 else 1) * mag := by
  cases neg <;> simp [signedRat]

/-- A bit pattern is read exactly when it has as many digits as the format, as the number whose pattern it is. -/
theorem literalNum_hex_eq_ok_iff (f : NumFormat) (nibbles bits : Nat) (x : PortNum) :
    literalNum f (.hex nibbles bits) = .ok x ↔
      f.width = some (4 * nibbles) ∧ f.holds x = true ∧ bitsOfNum x = some bits := by
  have hread : literalNum f (.hex nibbles bits) = .ok x ↔
      f.width = some (4 * nibbles) ∧ bits < 2 ^ (4 * nibbles) ∧ numOfBits f bits = x := by
    simp [literalNum, ite_eq_iff, and_assoc]
  rw [hread, and_congr_right_iff]
  exact fun hwidth => numOfBits_eq_iff hwidth bits x

/-- An operand that can be read is a number of the format. -/
theorem holds_of_literalNum {f : NumFormat} {l : Literal} {x : PortNum} (h : literalNum f l = .ok x) :
    f.holds x = true := by
  cases l with
  | decimal neg digits e => cases f <;> cases h <;> rfl
  | hex nibbles bits =>
    obtain ⟨-, hx, -⟩ := (literalNum_hex_eq_ok_iff f nibbles bits x).mp h
    exact hx

/-! ## Lines of a host program (30_encoding R90, R91) -/

/-- A line and what the pseudo-instruction `MODULATE` expands it to put the same on the ports. -/
theorem assembleLine_expandLine (f : NumFormat) (prev : CmdWords) (line : HostLine) :
    assembleLine f prev (expandLine line) = assembleLine f prev line := by
  cases line with
  | modulate m ua ub => cases m <;> rfl
  | _ => rfl

/-- Settles O6: each name expands to the line of its mode. -/
theorem pseudoInstructionExpands : Obligations.PseudoInstructionExpands := fun f prev ua ub =>
  have expands m := (assembleLine_expandLine f prev (.modulate m ua ub)).symm
  ⟨expands .svpwm, expands .zero, expands .thipwm, expands .one⟩

/-- A command line with readable operands presents the command of its mode, which the ports can carry. -/
theorem commandStep_presents {f : NumFormat} {ua ub : Literal} {a b : PortNum} (ha : literalNum f ua = .ok a)
    (hb : literalNum f ub = .ok b) (mode : Mode) :
    ∃ h, commandStep f mode ua ub = .ok h ∧ h.rst = false ∧ decodeWords h.words = modulateInstr mode a b ∧
      h.wf f = true ∧ h.reads = [] := by
  have hfits : f.holds a = true ∧ f.holds b = true := ⟨holds_of_literalNum ha, holds_of_literalNum hb⟩
  refine ⟨{ rst := false, words := { cmd := cmdOf true mode, ua := a, ub := b }, reads := [] },
    ?_, rfl, decodeWords_start mode a b, by simpa [HostStep.wf, CmdWords.wf] using hfits, rfl⟩
  simp only [commandStep, ha, hb]
  rfl

/-- Settles O7: a command line by `commandStep_presents`; a line without operands presents a word whose start bit is 0;
a decimal by the value of `decimalRat`, and a pattern by `literalNum_hex_eq_ok_iff`. -/
theorem assembledLineDecodes : Obligations.AssembledLineDecodes := by
  refine ⟨fun f prev ua ub a b ha hb => ⟨commandStep_presents ha hb .svpwm, commandStep_presents ha hb .thipwm⟩,
    fun f prev => ⟨fun mode => ?_, ?_, ?_⟩, fun neg digits e => ?_, literalNum_hex_eq_ok_iff⟩
  · exact ⟨_, rfl, rfl, decodeWords_idle mode .., by cases mode <;> rfl, rfl⟩
  · exact ⟨_, rfl, rfl, decodeWords_idle (cmdMode prev.cmd) .., rfl⟩
  · exact ⟨_, rfl, rfl, decodeWords_idle (cmdMode prev.cmd) .., OutPort.mem_all⟩
  · simp only [literalNum, signedRat_eq_mul, decimalRat_eq, implies_true, and_self]

end Sys2Proof.Machine

/-! # 40_voltage_projector: the projections over ℝ, and the evaluation order of the binary formats -/

/-! ## The projections over ℝ (40 R100, R102, R105) -/

namespace Sys2Proof.Machine

/-- Settles O12: the model negates the product that R100 writes as `-√3·Ualpha`. -/
theorem projectionFormulas : Obligations.ProjectionFormulas := by
  intro ua ub
  simp only [project, realArith, neg_mul]

/-- Settles O13: the two halves of `projectionFormulas` leave `-ub` between them. -/
theorem projectionsBalance : Obligations.ProjectionsBalance := by
  intro ua ub
  rw [projectionFormulas]
  ring

/-- 120° and 60° have the same sine and opposite cosines. -/
theorem sin_cos_two_pi_div_three :
    Real.sin (2 * Real.pi / 3) = Real.sqrt 3 / 2 ∧ Real.cos (2 * Real.pi / 3) = -(1 / 2) := by
  have hangle : 2 * Real.pi / 3 = Real.pi - Real.pi / 3 := by ring
  rw [hangle, Real.sin_pi_sub, Real.cos_pi_sub, Real.sin_pi_div_three, Real.cos_pi_div_three]
  exact ⟨rfl, rfl⟩

/-- The angle-sum identities at 120°, of which 40 R105 is derived. -/
theorem sin_add_two_pi_div_three (θ : ℝ) :
    Real.sin (θ + 2 * Real.pi / 3) = (Real.sqrt 3 * Real.cos θ - Real.sin θ) / 2 := by
  obtain ⟨hsin, hcos⟩ := sin_cos_two_pi_div_three
  rw [Real.sin_add, hsin, hcos]
  ring

theorem sin_sub_two_pi_div_three (θ : ℝ) :
    Real.sin (θ - 2 * Real.pi / 3) = (-Real.sqrt 3 * Real.cos θ - Real.sin θ) / 2 := by
  obtain ⟨hsin, hcos⟩ := sin_cos_two_pi_div_three
  rw [Real.sin_sub, hsin, hcos]
  ring

/-- Settles O14: scaled by `r`, the formulas of R100 are the angle-sum identities at 120°. -/
theorem projectionsPolarReading : Obligations.ProjectionsPolarReading := by
  intro r θ
  rw [projectionFormulas, sin_sub_two_pi_div_three, sin_add_two_pi_div_three, Proj.mk.injEq]
  exact ⟨rfl, by ring, by ring⟩

/-! ## The evaluation order of a binary format (40 R103, 42 R134, R135, R139)

One sequence for each stage, whatever the layout; a format only has its own patterns for the literals. -/

section

variable {L : IeeeLayout} {w : Nat} {sqrt3 half negHalf two three six : BitVec w} {draw : Nat → BitVec w}

theorem project_ieeeArith (htwo : ieeeRound L w false 2 = two) (ua ub : BitVec w) :
    project (ieeeArith L w sqrt3 draw) ua ub =
      { ta := ub
        tb := ieeeDiv L (ieeeSub L (ieeeNeg L (ieeeMul L sqrt3 ua)) ub) two
        tc := ieeeDiv L (ieeeSub L (ieeeMul L sqrt3 ua) ub) two } := by
  subst htwo
  rfl

theorem cmBounds_ieeeArith (hhalf : (ieeeArith L w sqrt3 draw).half = half) (hneg : ieeeNeg L half = negHalf)
    (htwo : ieeeRound L w false 2 = two) (hthree : ieeeRound L w false 3 = three) (d1 d2 : BitVec w) :
    cmBounds (ieeeArith L w sqrt3 draw) { d1 := d1, d2 := d2 } =
      { v0min := ieeeAdd L (ieeeAdd L negHalf (ieeeDiv L d1 three)) (ieeeDiv L (ieeeMul L two d2) three)
        v0max := ieeeSub L (ieeeSub L half (ieeeDiv L (ieeeMul L two d1) three)) (ieeeDiv L d2 three) } := by
  subst htwo hthree hneg hhalf
  rfl

theorem svpwmRaw_ieeeArith (hsix : ieeeRound L w false 6 = six) (d1 d2 : BitVec w) :
    svpwmRaw (ieeeArith L w sqrt3 draw) { d1 := d1, d2 := d2 } = ieeeDiv L (ieeeSub L d2 d1) six := by
  subst hsix
  rfl

theorem dutyLadder_ieeeArith (hhalf : (ieeeArith L w sqrt3 draw).half = half) (htwo : ieeeRound L w false 2 = two)
    (hthree : ieeeRound L w false 3 = three) (d1 d2 vcm : BitVec w) :
    let base := ieeeSub L (ieeeSub L (ieeeAdd L half vcm) (ieeeDiv L d1 three)) (ieeeDiv L (ieeeMul L two d2) three)
    dutyLadder (ieeeArith L w sqrt3 draw) { d1 := d1, d2 := d2 } vcm =
      (base, ieeeAdd L base d2, ieeeAdd L (ieeeAdd L base d2) d1) := by
  subst htwo hthree hhalf
  rfl

end

/-- The pattern of −0.5 with which CM_BOUNDS begins (42 R134). -/
theorem ieeeNeg_half32 : ieeeNeg binary32Layout 0x3F000000#32 = 0xBF000000#32 := by decide

theorem ieeeNeg_half64 : ieeeNeg binary64Layout 0x3FE0000000000000#64 = 0xBFE0000000000000#64 := by decide

/-- Settles O15: the sequences are those of any layout, with the literals of `BINARY64` and of `BINARY32`. -/
theorem binaryEvaluationOrder : Obligations.BinaryEvaluationOrder :=
  ⟨fun _ => project_ieeeArith round64_two,
    fun c => cmBounds_ieeeArith (arith64_half c) ieeeNeg_half64 round64_two round64_three,
    fun c => dutyLadder_ieeeArith (arith64_half c) round64_two round64_three,
    fun _ => svpwmRaw_ieeeArith round64_six,
    fun _ => svpwmRaw_ieeeArith round32_six,
    fun _ => project_ieeeArith round32_two,
    fun c => cmBounds_ieeeArith (arith32_half c) ieeeNeg_half32 round32_two round32_three,
    fun c => dutyLadder_ieeeArith (arith32_half c) round32_two round32_three⟩

end Sys2Proof.Machine

/-! # 41_sector_classifier: the tables, the two schemes, the draws, and the angle map -/

/-! ## The tables and the draws (41 R110 to R114, R117) -/

namespace Sys2Proof.Machine

/-- Settles O16: in each row the signs of the projections decide the tests of the decision tree down to the row's leaf. -/
theorem classifierTables : Obligations.ClassifierTables := by
  intro α A t
  refine ⟨fun ha hc => ?_, fun ha hc hb => ?_, fun ha hc hb => ?_, fun ha hc => ?_, fun ha hc hb => ?_,
    fun ha hc hb => ?_⟩
  · simp [classifyTree, ha, hc]
  · simp [classifyTree, ha, hc, hb]
  · simp [classifyTree, ha, hc, hb]
  · simp [classifyTree, ha, hc]
  · simp [classifyTree, ha, hc, hb]
  · simp [classifyTree, ha, hc, hb]

section

variable {α : Type} (A : Arith α)

/-- Each leaf of the decision tree names a 12-sector index of the pair that is its 6-sector index. -/
theorem classifyTree_s6 (t : Proj α) : (classifyTree A t).s6 = pairOf (classifyTree A t).s12 := by
  unfold classifyTree
  split_ifs <;> rfl

variable {A} {t : Proj α}

theorem classify_of_projFinite (h : projFinite A t = true) (draws : Nat) :
    classify A t draws = (classifyTree A t, draws) := if_pos h

theorem classify_of_not_projFinite (h : projFinite A t = false) (draws : Nat) :
    classify A t draws = (drawSectors draws, draws + 1) := if_neg (Bool.eq_false_iff.mp h)

variable (A t)

theorem classify_s6 (draws : Nat) : (classify A t draws).1.s6 = pairOf (classify A t draws).1.s12 := by
  cases h : projFinite A t with
  | true => rw [classify_of_projFinite h, classifyTree_s6]
  | false => rw [classify_of_not_projFinite h]; rfl

end

/-- Settles O17: the 6-sector index is the pair of the 12-sector index, of a leaf of the tree and of a draw. -/
theorem schemesAgree : Obligations.SchemesAgree := fun _ A t n => congrArg Fin.val (classify_s6 A t n)

/-- Settles O19: the first test of `classify` is whether the projections are finite, and the code of any index is valid. -/
theorem nonfiniteSectorIsDrawn : Obligations.NonfiniteSectorIsDrawn := by
  refine ⟨fun α A t n h => ?_, fun α A t n h => classify_of_projFinite h n,
    fun α A t n scheme => sectorCode_valid scheme _⟩
  rw [classify_of_not_projFinite h]
  exact ⟨rfl, rfl, rfl⟩

end Sys2Proof.Machine

/-! ## The reported sector (41 R118, 30_encoding R84, R85) -/

namespace Sys2Proof.Machine

@[simp] theorem sectorCode_twelve_toNat (k : Sectors) : (sectorCode .twelve k).toNat = k.s12.val :=
  Nat.mod_eq_of_lt (by omega)

@[simp] theorem sectorCode_six_toNat (k : Sectors) : (sectorCode .six k).toNat = k.s6.val :=
  Nat.mod_eq_of_lt (by omega)

/-- A command's two indices agree, on a finite path and when they are drawn. -/
theorem modulation_s6 {α : Type} (A : Arith α) (c : Config) (mode : Mode) (draws : Nat) (ua ub : α) :
    (modulation A c mode draws ua ub).sectors.s6 = pairOf (modulation A c mode draws ua ub).sectors.s12 := by
  by_cases h : FinitePath A c mode (classifyTree A (project A ua ub)).s12 ua ub
  · rw [modulation_of_finitePath h]
    exact classifyTree_s6 A _
  · rw [modulation_of_not_finitePath h]
    rfl

/-- The arithmetic of an instance depends on its number format alone. -/
theorem InFormat.of_numFormat_eq {c c' : Config} {α : Type} {A : Arith α} {toNum : α → PortNum} (h : InFormat c A toNum)
    (heq : c'.numFormat = c.numFormat) : InFormat c' A toNum := by
  cases h with
  | binary32 sqrt3 hf => exact .binary32 sqrt3 (heq.trans hf)
  | binary64 sqrt3 hf => exact .binary64 sqrt3 (heq.trans hf)
  | real hf => exact .real (heq.trans hf)

/-- The state of the same instance under another `SECTOR_SCHEME`. -/
def State.withScheme (s : State) (scheme : SectorScheme) : State :=
  { s with cfg := { s.cfg with sectorScheme := scheme } }

@[simp] theorem State.withScheme_sectorScheme (s : State) (scheme : SectorScheme) :
    (s.withScheme scheme).cfg.sectorScheme = scheme := rfl

/-- Under either scheme a command writes the results of one modulation, which does not read the parameter. -/
theorem InFormat.exec_withScheme {s : State} {α : Type} {A : Arith α} {toNum : α → PortNum}
    (h : InFormat s.cfg A toNum) {a b : α} (hacc : Accepted s.cfg (toNum a) (toNum b)) (mode : Mode)
    (scheme : SectorScheme) :
    exec (modulateInstr mode (toNum a) (toNum b)) (s.withScheme scheme) =
      .next ((s.withScheme scheme).commit (toNum a) (toNum b)
        ((modulation A s.cfg mode s.draws a b).map toNum)) := by
  have hA : InFormat (s.withScheme scheme).cfg A toNum := h.of_numFormat_eq rfl
  rw [exec_modulateInstr]
  exact hA.modulate_of_accepted hacc mode

/-- Settles O43: both schemes write the results of one modulation, each reporting its own of the two indices, which
agree. -/
theorem schemeOnlyChangesReport : Obligations.SchemeOnlyChangesReport := by
  refine ⟨fun k => ⟨sectorCode_twelve_toNat k, sectorCode_six_toNat k⟩, ?_⟩
  intro s α A toNum hA ua ub mode hacc k
  refine ⟨_, _, hA.exec_withScheme hacc mode .twelve, hA.exec_withScheme hacc mode .six, ?_⟩
  simp only [State.commit_lastSector, State.withScheme_sectorScheme, sectorCode_twelve_toNat, sectorCode_six_toNat]
  refine ⟨fun hpath => ?_, Fin.is_lt _, congrArg Fin.val (modulation_s6 A s.cfg mode s.draws ua ub), rfl⟩
  rw [modulation_of_finitePath hpath]
  exact ⟨rfl, rfl⟩

end Sys2Proof.Machine

/-! ## The angle map (41 R116)

Every test of the decision tree asks on which side of a line through the origin the command lies, and these lines are the
borders of the 30° wedges. -/

namespace Sys2Proof

/-- The projections of the command turned back by 60°. -/
def Proj.turnBack (t : Proj ℝ) : Proj ℝ := { ta := -t.tc, tb := -t.ta, tc := -t.tb }

/-- On which side of the line at `k · 30°` a command lies: positive on the side of the greater angles. -/
def Proj.border (t : Proj ℝ) : Nat → ℝ
  | 0 => t.ta
  | 1 => t.ta - t.tc
  | k + 2 => t.turnBack.border k

end Sys2Proof

namespace Sys2Proof.Machine

/-- The projections of the command at angle θ with magnitude `r`. -/
noncomputable def polarProject (r θ : ℝ) : Proj ℝ := project realArith (r * Real.cos θ) (r * Real.sin θ)

theorem polarProject_eq (r θ : ℝ) : polarProject r θ =
    { ta := r * Real.sin θ, tb := r * Real.sin (θ - 2 * Real.pi / 3), tc := r * Real.sin (θ + 2 * Real.pi / 3) } :=
  projectionsPolarReading r θ

/-- Turning back is by 60°: of the three angles 0°, -120° and 120° each then differs from another's by 180°. -/
theorem polarProject_turnBack (r θ : ℝ) : (polarProject r θ).turnBack = polarProject r (θ - Real.pi / 3) := by
  have hta : θ - Real.pi / 3 = θ + 2 * Real.pi / 3 - Real.pi := by ring
  have htb : θ - Real.pi / 3 - 2 * Real.pi / 3 = θ - Real.pi := by ring
  have htc : θ - Real.pi / 3 + 2 * Real.pi / 3 = θ - 2 * Real.pi / 3 + Real.pi := by ring
  rw [polarProject_eq, polarProject_eq, Proj.turnBack, htb, htc, hta, Real.sin_sub_pi, Real.sin_sub_pi, Real.sin_add_pi]
  simp only [mul_neg]

/-- The side of a line is the sign of the sine of the angle from it. -/
theorem border_polarProject {r : ℝ} (hr : 0 < r) (k : Nat) (θ : ℝ) :
    ∃ c : ℝ, 0 < c ∧ (polarProject r θ).border k = c * Real.sin (θ - k * (Real.pi / 6)) := by
  induction k using Nat.twoStepInduction generalizing θ with
  | zero => exact ⟨r, hr, by simp [Proj.border, polarProject_eq]⟩
  | one =>
    refine ⟨Real.sqrt 3 * r, by positivity, ?_⟩
    simp only [Proj.border, polarProject_eq]
    rw [sin_add_two_pi_div_three, Nat.cast_one, one_mul, Real.sin_sub, Real.cos_pi_div_six, Real.sin_pi_div_six]
    linear_combination (-(r * Real.sin θ / 2)) * sqrt3_sq
  | more k ih _ =>
    obtain ⟨c, hc, h⟩ := ih (θ - Real.pi / 3)
    have hangle : θ - Real.pi / 3 - k * (Real.pi / 6) = θ - (k + 2 : Nat) * (Real.pi / 6) := by
      push_cast
      ring
    exact ⟨c, hc, by rw [Proj.border, polarProject_turnBack, h, hangle]⟩

/-- A triple between the lines at `k · 30°` and at `(k + 1) · 30°` is of sector `k`, unless it is on the line at 0°. -/
theorem classifyTree_of_wedge {t : Proj ℝ} (hsum : t.ta + t.tb + t.tc = 0) (k : Fin 12) (hlo : 0 ≤ t.border k)
    (hhi : t.border (k + 1) < 0) (hzero : k = 0 → t.ta ≠ 0) : (classifyTree realArith t).s12 = k := by
  rw [classifyTree_real]
  fin_cases k <;> simp only [Proj.border, Proj.turnBack, Fin.zero_eta, Fin.mk_one, Fin.reduceFinMk] at hlo hhi ⊢
  · have hta : 0 < t.ta := lt_of_le_of_ne hlo (hzero rfl).symm
    rw [if_pos, if_pos, if_pos] <;> linarith
  · rw [if_pos, if_pos, if_neg] <;> linarith
  · rw [if_pos, if_neg, if_pos, if_pos] <;> linarith
  · rw [if_pos, if_neg, if_pos, if_neg] <;> linarith
  · rw [if_pos, if_neg, if_neg, if_pos] <;> linarith
  · rw [if_pos, if_neg, if_neg, if_neg] <;> linarith
  · rw [if_neg, if_pos, if_pos] <;> linarith
  · rw [if_neg, if_pos, if_neg] <;> linarith
  · rw [if_neg, if_neg, if_pos, if_pos] <;> linarith
  · rw [if_neg, if_neg, if_pos, if_neg] <;> linarith
  · rw [if_neg, if_neg, if_neg, if_pos] <;> linarith
  · rw [if_neg, if_neg, if_neg, if_neg] <;> linarith

/-- Settles O18: an angle in the wedge of `k` is less than 180° from the line below it and from the line above it, on their
two sides; and on the line at 0° every test of the decision tree fails. -/
theorem sectorAngleMap : Obligations.SectorAngleMap := by
  refine ⟨fun r θ hr hθ k hlo hhi => ?_, fun r hr => ?_⟩
  · have hpi := Real.pi_pos
    obtain ⟨c, hc, hbelow⟩ := border_polarProject hr k θ
    obtain ⟨d, hd, habove⟩ := border_polarProject hr (k + 1) θ
    rw [Nat.cast_succ] at habove
    refine classifyTree_of_wedge (t := polarProject r θ) (projectionsBalance _ _) k ?_ ?_ ?_
    · rw [hbelow]
      exact mul_nonneg hc.le (Real.sin_nonneg_of_nonneg_of_le_pi (by linarith) (by linarith))
    · rw [habove]
      exact mul_neg_of_pos_of_neg hd (Real.sin_neg_of_neg_of_neg_pi_lt (by linarith) (by linarith))
    · rintro rfl
      simp only [Fin.val_zero, Nat.cast_zero, zero_mul, zero_add, one_mul] at hlo hhi
      have hsin : 0 < Real.sin θ := Real.sin_pos_of_pos_of_lt_pi (lt_of_le_of_ne hlo hθ.symm) (by linarith)
      rw [polarProject_eq]
      exact (mul_pos hr hsin).ne'
  · have hs : 0 ≤ Real.sqrt 3 * r := by positivity
    rw [classifyTree_real, projectionFormulas, if_neg, if_neg, if_neg, if_neg] <;> linarith

end Sys2Proof.Machine

/-! # 42_pwm_duty_synthesizer: the coefficients, the common mode, the duties and the final clamp -/

/-! ## The coefficients (42 R131, R132) -/

namespace Sys2Proof.Machine

/-- Settles O20: each row of the table names the two sectors of one pair. -/
theorem pairCoefficientTable : Obligations.PairCoefficientTable := by
  intro α A t
  refine ⟨?_, ?_, ?_, ?_, ?_, ?_⟩ <;> rintro s12 (rfl | rfl) <;> rfl

/-- A coefficient is a projection or a negated one, and the branch of the decision tree that chooses it has tested its
sign. So R132 asks two things of the comparison with 0. -/
theorem coefficients_not_neg {α : Type} {A : Arith α} (hneg : ∀ x, A.lt (A.neg x) A.zero = A.lt A.zero x)
    (hasymm : ∀ x y, A.lt x y = true → A.lt y x = false) (t : Proj α) :
    A.lt (pairCoeff A (pairOf (classifyTree A t).s12) t).d1 A.zero = false ∧
    A.lt (pairCoeff A (pairOf (classifyTree A t).s12) t).d2 A.zero = false := by
  obtain ⟨row0, row1, row2, row3, row4, row5⟩ := classifierTables α A t
  rw [← classifyTree_s6]
  cases ha : A.lt A.zero t.ta with
  | true =>
    cases hc : A.lt A.zero t.tc with
    | true => rw [row0 ha hc]; exact ⟨hasymm _ _ hc, hasymm _ _ ha⟩
    | false =>
      cases hb : A.lt t.tb A.zero with
      | true => rw [row1 ha hc hb]; exact ⟨(hneg _).trans hc, (hneg _).trans (hasymm _ _ hb)⟩
      | false => rw [row2 ha hc hb]; exact ⟨hasymm _ _ ha, hb⟩
  | false =>
    cases hc : A.lt t.tc A.zero with
    | true => rw [row3 ha hc]; exact ⟨(hneg _).trans ha, (hneg _).trans (hasymm _ _ hc)⟩
    | false =>
      cases hb : A.lt A.zero t.tb with
      | true => rw [row4 ha hc hb]; exact ⟨hasymm _ _ hb, hc⟩
      | false => rw [row5 ha hc hb]; exact ⟨(hneg _).trans hb, (hneg _).trans ha⟩

/-- No number is below itself, in any number format (00_scope R11). -/
theorem MachineArith.lt_irrefl {α : Type} {A : Arith α} (hA : MachineArith A) (x : α) : A.lt x x = false := by
  cases hA with
  | binary32 sqrt3 => exact ieeeLt_irrefl binary32Layout x
  | binary64 sqrt3 => exact ieeeLt_irrefl binary64Layout x
  | real o =>
    obtain ⟨v, hv⟩ := o.from_real
    simp [exactArithOf_lt hv]

theorem MachineArith.lt_asymm {α : Type} {A : Arith α} (hA : MachineArith A) {x y : α} (hxy : A.lt x y = true) :
    A.lt y x = false :=
  Bool.eq_false_iff.mpr fun hyx => Bool.false_ne_true ((hA.lt_irrefl x).symm.trans (hA.lt_trans hxy hyx))

/-- A zero of either sign compares as the other, so negating one side alone reverses a comparison with it. -/
theorem ieeeLt_neg_of_zero (L : IeeeLayout) {w : Nat} (hw : w = 1 + L.expBits + L.fracBits) {zero : BitVec w} {s : Bool}
    (hzero : ieeeValue L zero = .finite s 0) (x : BitVec w) : ieeeLt L (ieeeNeg L x) zero = ieeeLt L zero x := by
  unfold ieeeLt
  rw [ieeeValue_neg L hw, hzero]
  cases ieeeValue L x with
  | nan => rfl
  | inf t => cases t <;> rfl
  | finite t m =>
    have hz : signedRat s 0 = 0 := by simp [signedRat]
    simp [hz, signedRat_not]

theorem ieeeValue_zero32 : ieeeValue binary32Layout 0#32 = .finite false 0 := by decide +kernel

theorem ieeeValue_zero64 : ieeeValue binary64Layout 0#64 = .finite false 0 := by decide +kernel

theorem MachineArith.neg_lt_zero {α : Type} {A : Arith α} (hA : MachineArith A) (x : α) :
    A.lt (A.neg x) A.zero = A.lt A.zero x := by
  cases hA with
  | binary32 sqrt3 =>
    rw [arith32_zero]
    exact ieeeLt_neg_of_zero binary32Layout rfl ieeeValue_zero32 x
  | binary64 sqrt3 =>
    rw [arith64_zero]
    exact ieeeLt_neg_of_zero binary64Layout rfl ieeeValue_zero64 x
  | real o =>
    obtain ⟨v, hv⟩ := o.from_real
    have hom := exactValue_arithHom hv
    rw [← hom.lt, ← hom.lt, ← hom.neg, ← hom.zero]
    simp [realArith]

/-- Settles O21: in every number format the comparison is asymmetric, and a negated number is below 0 exactly when the
number is above. -/
theorem coefficientsNotNegative : Obligations.CoefficientsNotNegative := fun _ _ hA =>
  coefficients_not_neg hA.neg_lt_zero fun _ _ => hA.lt_asymm

/-- R132 over ℝ, with the order of ℝ itself. -/
theorem coefficients_nonneg_real (t : Proj ℝ) :
    0 ≤ (pairCoeff realArith (pairOf (classifyTree realArith t).s12) t).d1 ∧
    0 ≤ (pairCoeff realArith (pairOf (classifyTree realArith t).s12) t).d2 := by
  have h := coefficients_not_neg (A := realArith) (by simp [realArith]) (by simp +contextual [realArith, le_of_lt]) t
  simpa [realArith] using h

/-- Both coefficients have the magnitude of a projection. The third projection has that of their sum, for the three add up
to 0. -/
theorem coefficients_add_eq_max {p : Fin 6} {t : Proj ℝ} (hsum : t.ta + t.tb + t.tc = 0)
    (h1 : 0 ≤ (pairCoeff realArith p t).d1) (h2 : 0 ≤ (pairCoeff realArith p t).d2) :
    (pairCoeff realArith p t).d1 + (pairCoeff realArith p t).d2 = max |t.ta| (max |t.tb| |t.tc|) := by
  fin_cases p <;> simp only [pairCoeff, realArith_neg] at h1 h2 ⊢
  all_goals
    refine le_antisymm ?attained (max_le ?_ (max_le ?_ ?_))
    case attained =>
      simp only [le_max_iff, le_abs]
      grind
    all_goals exact abs_le.mpr ⟨by linarith, by linarith⟩

/-- Settles O28: the coefficients of a classified command are not negative. -/
theorem coefficientSumIsLargestProjection : Obligations.CoefficientSumIsLargestProjection := by
  intro ua ub
  obtain ⟨h1, h2⟩ := coefficients_nonneg_real (project realArith ua ub)
  exact coefficients_add_eq_max (projectionsBalance ua ub) h1 h2

/-! ## The common mode (42 R133, R135 to R137) -/

/-- Settles O22: the model adds to `-(1/2)` where R133 writes `-1/2`. -/
theorem commonModeFormulas : Obligations.CommonModeFormulas := by
  intro d1 d2
  refine ⟨?_, rfl⟩
  simp only [cmBounds, realArith, neg_div]

section

variable {α : Type} {A : Arith α} {d : Coeff α} {b : Bounds α}

/-- Between ordered bounds the two forms of the clamp are one (00_scope R13). -/
theorem cmSvpwm_eq_clampLoFirst (hA : MachineArith A) (hordered : A.lt b.v0max b.v0min = false) (crossed : CmCrossed) :
    cmSvpwm A crossed d b = clampLoFirst A (svpwmRaw A d) b.v0min b.v0max := by
  cases crossed with
  | v0min => rfl
  | v0max => exact ((clampFormsAgreeOnOrderedBounds α A hA _ _ _).1 hordered).symm

theorem cmSvpwm_eq_clampHiFirst (hA : MachineArith A) (hordered : A.lt b.v0max b.v0min = false) (crossed : CmCrossed) :
    cmSvpwm A crossed d b = clampHiFirst A (svpwmRaw A d) b.v0min b.v0max := by
  rw [cmSvpwm_eq_clampLoFirst hA hordered]
  exact (clampFormsAgreeOnOrderedBounds α A hA _ _ _).1 hordered

/-- Neither form changes a value of which neither test holds, whichever test comes first. -/
theorem cmSvpwm_of_between (hlo : A.lt (svpwmRaw A d) b.v0min = false) (hhi : A.lt b.v0max (svpwmRaw A d) = false)
    (crossed : CmCrossed) : cmSvpwm A crossed d b = svpwmRaw A d := by
  cases crossed <;> simp [cmSvpwm, clampLoFirst, clampHiFirst, hlo, hhi]

end

/-- R137: over ℝ the common mode before its clamp is the midpoint of the bounds. -/
theorem svpwmRaw_eq_midpoint (d : Coeff ℝ) :
    svpwmRaw realArith d = ((cmBounds realArith d).v0min + (cmBounds realArith d).v0max) / 2 := by
  obtain ⟨hbounds, hraw⟩ := commonModeFormulas d.d1 d.d2
  rw [hbounds, hraw]
  ring

theorem cmSvpwm_of_ordered {d : Coeff ℝ} (h : (cmBounds realArith d).v0min ≤ (cmBounds realArith d).v0max)
    (crossed : CmCrossed) : cmSvpwm realArith crossed d (cmBounds realArith d) = svpwmRaw realArith d := by
  have hmid := svpwmRaw_eq_midpoint d
  refine cmSvpwm_of_between ?_ ?_ crossed
  · rw [realArith_lt, decide_eq_false_iff_not]
    linarith
  · rw [realArith_lt, decide_eq_false_iff_not]
    linarith

/-- Settles O23: on ordered bounds the two forms are one, so the test that holds decides; and over ℝ the value clamped is
the midpoint, of which no test holds on ordered bounds and both hold on crossed ones. -/
theorem svpwmCommonModeClamp : Obligations.SvpwmCommonModeClamp := by
  refine ⟨fun α A d b => ⟨rfl, rfl⟩, fun α A hA d b crossed hordered => ⟨fun hlo => ?_, fun hhi => ?_, fun hlo hhi => ?_⟩,
    fun d => ⟨fun hordered crossed => ?_, fun hcrossed => ⟨?_, ?_⟩⟩⟩
  · rw [cmSvpwm_eq_clampLoFirst hA hordered, clampLoFirst, if_pos hlo]
  · rw [cmSvpwm_eq_clampHiFirst hA hordered, clampHiFirst, if_pos hhi]
  · exact cmSvpwm_of_between hlo hhi crossed
  · rw [cmSvpwm_of_ordered hordered, svpwmRaw_eq_midpoint]
  · refine if_pos ?_
    rw [realArith_lt, svpwmRaw_eq_midpoint, decide_eq_true_iff]
    linarith
  · refine if_pos ?_
    rw [realArith_lt, svpwmRaw_eq_midpoint, decide_eq_true_iff]
    linarith

/-! ## The unclamped duties (42 R138, R142 to R145) -/

/-- Settles O24: over ℝ the evaluation order of R139 is how R138 reads. -/
theorem dutyAssignmentTable : Obligations.DutyAssignmentTable := by
  refine ⟨fun d1 d2 vcm => rfl, fun α A d vcm base second third h => ?_⟩
  simp only [dutyAssign, h, and_self]

/-- Settles O26: two duties differ by one coefficient or by both, in every pair by the right ones of the projections, which
add up to 0. -/
theorem lineToLineInvariance : Obligations.LineToLineInvariance := by
  intro ua ub vcm p t u
  have hsum : t.ta + t.tb + t.tc = 0 := projectionsBalance ua ub
  fin_cases p
  all_goals
    simp only [u, dutyAssign, dutyLadder, pairCoeff, realArith]
    exact ⟨by linarith, by linarith, by linarith, by linarith⟩

/-- R145: the bounds are as far apart as the coefficients leave room for. -/
theorem cmBounds_width (d : Coeff ℝ) :
    (cmBounds realArith d).v0max - (cmBounds realArith d).v0min = 1 - (d.d1 + d.d2) := by
  rw [(commonModeFormulas d.d1 d.d2).1]
  ring

/-- R143: the value least in every pair is 0 at V0min, and the others stand above it by the coefficients. -/
theorem dutyLadder_real (d : Coeff ℝ) (vcm : ℝ) :
    dutyLadder realArith d vcm =
      let base := vcm - (cmBounds realArith d).v0min
      (base, base + d.d2, base + d.d2 + d.d1) := by
  have hbase : vcm - (cmBounds realArith d).v0min = 1 / 2 + vcm - d.d1 / 3 - 2 * d.d2 / 3 := by
    rw [(commonModeFormulas d.d1 d.d2).1]
    ring
  rw [hbase]
  rfl

/-- R143: whichever phase it goes to, `base` is the smallest duty. -/
theorem dutyAssign_min {d : Coeff ℝ} (h1 : 0 ≤ d.d1) (h2 : 0 ≤ d.d2) (p : Fin 6) (vcm : ℝ) :
    let u := dutyAssign realArith p d vcm
    min u.a (min u.b u.c) = vcm - (cmBounds realArith d).v0min := by
  fin_cases p <;> simp [dutyAssign, dutyLadder_real, h1, h2, add_nonneg, add_assoc]

/-- R143: whichever phase it goes to, `third` is the largest duty. -/
theorem dutyAssign_max {d : Coeff ℝ} (h1 : 0 ≤ d.d1) (h2 : 0 ≤ d.d2) (p : Fin 6) (vcm : ℝ) :
    let u := dutyAssign realArith p d vcm
    max u.a (max u.b u.c) = 1 + vcm - (cmBounds realArith d).v0max := by
  have hthird : 1 + vcm - (cmBounds realArith d).v0max = vcm - (cmBounds realArith d).v0min + (d.d2 + d.d1) := by
    linarith [cmBounds_width d]
  fin_cases p <;> simp [dutyAssign, dutyLadder_real, h1, h2, add_nonneg, add_assoc, hthird]

/-- Settles O27: all duties are at least 0 when the smallest is, and at most 1 when the largest is. -/
theorem dutiesInRangeBetweenBounds : Obligations.DutiesInRangeBetweenBounds := by
  intro p d vcm h1 h2 b u
  have hmin : min u.a (min u.b u.c) = vcm - b.v0min := dutyAssign_min h1 h2 p vcm
  have hmax : max u.a (max u.b u.c) = 1 + vcm - b.v0max := dutyAssign_max h1 h2 p vcm
  refine ⟨?_, ?_, cmBounds_width d⟩
  · rw [← le_min_iff, ← le_min_iff, hmin, sub_nonneg]
  · rw [← max_le_iff, ← max_le_iff, hmax, add_sub_assoc, add_le_iff_nonpos_right, sub_nonpos]

/-! ## The final clamp (42 R140, R141) -/

theorem clampUnit_real_of_mem {u : ℝ} (h0 : 0 ≤ u) (h1 : u ≤ 1) : clampUnit realArith u = u := by
  rw [clampUnit, clampLoFirst, if_neg, if_neg] <;> simpa [realArith]

/-- Settles O25: the clamp of a phase is `clamp_lo_first` into the literals 0 and 1 of the format. -/
theorem finalClamp : Obligations.FinalClamp := by
  refine ⟨fun α A u => ⟨rfl, rfl⟩, fun c u => ?_, fun c u => ?_, fun u => ⟨fun h => ?_, fun h => ?_, fun h0 h1 => ?_⟩⟩
  · rw [clampUnit, arith32_zero, arith32_one]
    rfl
  · rw [clampUnit, arith64_zero, arith64_one]
    rfl
  · exact if_pos (decide_eq_true h)
  · have hlo : ¬ u < 0 := by linarith
    simp [clampUnit, clampLoFirst, realArith, hlo, h]
  · exact clampUnit_real_of_mem h0 h1

/-- R144: duties in [0, 1] are final, with the clamp or without. -/
theorem finalDuty_of_mem {u : Duty ℝ} (h0 : 0 ≤ u.a ∧ 0 ≤ u.b ∧ 0 ≤ u.c) (h1 : u.a ≤ 1 ∧ u.b ≤ 1 ∧ u.c ≤ 1)
    (clamp : Bool) : finalDuty realArith clamp u = u := by
  obtain ⟨ha0, hb0, hc0⟩ := h0
  obtain ⟨ha1, hb1, hc1⟩ := h1
  cases clamp with
  | false => rfl
  | true =>
    simp only [finalDuty, if_true, clampUnit_real_of_mem ha0 ha1, clampUnit_real_of_mem hb0 hb1,
      clampUnit_real_of_mem hc0 hc1]

/-- 0 and 1 are numbers of every number format, and 1 is not below 0. -/
theorem MachineArith.zero_one {α : Type} {A : Arith α} (hA : MachineArith A) :
    A.finite A.zero = true ∧ A.finite A.one = true ∧ A.lt A.one A.zero = false := by
  cases hA with
  | binary32 c =>
    change ieeeFinite binary32Layout _ = true ∧ ieeeFinite binary32Layout _ = true ∧ ieeeLt binary32Layout _ _ = false
    rw [arith32_zero, arith32_one]
    decide +kernel
  | binary64 c =>
    change ieeeFinite binary64Layout _ = true ∧ ieeeFinite binary64Layout _ = true ∧ ieeeLt binary64Layout _ _ = false
    rw [arith64_zero, arith64_one]
    decide +kernel
  | real o =>
    obtain ⟨v, hv⟩ := o.from_real
    have hom := exactValue_arithHom hv
    refine ⟨rfl, rfl, ?_⟩
    rw [← hom.lt, ← hom.one, ← hom.zero]
    simp [realArith]

/-- The clamp of a phase answers a literal or a number of which neither of its tests holds. -/
theorem MachineArith.inUnit_clampUnit {α : Type} {A : Arith α} (hA : MachineArith A) {u : α} (hu : A.finite u = true) :
    InUnit A (clampUnit A u) := by
  obtain ⟨hzero, hone, hlt⟩ := hA.zero_one
  unfold clampUnit clampLoFirst
  split_ifs with hlo hhi
  · exact ⟨hzero, hA.lt_irrefl _, hlt⟩
  · exact ⟨hone, hlt, hA.lt_irrefl _⟩
  · exact ⟨hu, Bool.eq_false_iff.mpr hlo, Bool.eq_false_iff.mpr hhi⟩

/-- The arithmetic of an instance is one of the machine's. -/
theorem InFormat.machineArith {c : Config} {α : Type} {A : Arith α} {toNum : α → PortNum} (h : InFormat c A toNum) :
    MachineArith A := by
  cases h with
  | binary32 sqrt3 => exact .binary32 sqrt3
  | binary64 sqrt3 => exact .binary64 sqrt3
  | real => exact .real machineOrder

theorem inUnit_arith32_iff (c u : BitVec 32) : InUnit (arith32 c) u ↔ ieeeFinite binary32Layout u = true ∧
    ieeeLt binary32Layout u 0#32 = false ∧ ieeeLt binary32Layout 0x3F800000#32 u = false := by
  rw [InUnit, arith32_zero, arith32_one]
  rfl

theorem inUnit_arith64_iff (c u : BitVec 64) : InUnit (arith64 c) u ↔ ieeeFinite binary64Layout u = true ∧
    ieeeLt binary64Layout u 0#64 = false ∧ ieeeLt binary64Layout 0x3FF0000000000000#64 u = false := by
  rw [InUnit, arith64_zero, arith64_one]
  rfl

/-- A register's number lies in [0, 1] as a number of the instance's format does: `SQRT3_CONST` has no part in it. -/
theorem InFormat.numInUnit_toNum {c : Config} {α : Type} {A : Arith α} {toNum : α → PortNum} (h : InFormat c A toNum)
    {x : α} (hx : InUnit A x) : NumInUnit (toNum x) := by
  cases h with
  | binary32 c => exact (inUnit_arith32_iff _ x).mpr ((inUnit_arith32_iff c x).mp hx)
  | binary64 c => exact (inUnit_arith64_iff _ x).mpr ((inUnit_arith64_iff c x).mp hx)
  | real => exact hx

theorem finite_of_allFinite {α : Type} {A : Arith α} {t : Proj α} {b : Bounds α} {vcm : α} {u : Duty α}
    (h : allFinite A t b vcm u = true) : A.finite u.a = true ∧ A.finite u.b = true ∧ A.finite u.c = true := by
  simp only [allFinite, Bool.and_eq_true] at h
  obtain ⟨⟨⟨-, ha⟩, hb⟩, hc⟩ := h
  exact ⟨ha, hb, hc⟩

/-- Settles O45: a command that took no free value has a finite path, so each phase's clamp is given a number. -/
theorem clampedDutiesInUnit : Obligations.ClampedDutiesInUnit := by
  intro s t mode ua ub hacc hclamp h hdraws
  rw [exec_modulateInstr] at h
  obtain ⟨α, A, toNum, a, b, hA, rfl, rfl⟩ := modulate_next_inFormat h
  rw [hA.modulate_of_accepted hacc, Host.Outcome.next.injEq] at h
  subst h
  have hnone : (modulation A s.cfg mode s.draws a b).draws = s.draws := hdraws
  have hpath := (modulation_draws_eq_iff s.draws).mp hnone
  obtain ⟨ha, hb, hc⟩ := finite_of_allFinite hpath
  rw [modulation_of_finitePath hpath]
  simp only [State.commit_lastMa, State.commit_lastMb, State.commit_lastMc, Modulation.map, finalDuty, hclamp, if_true]
  have hclamped {u : α} (hu : A.finite u = true) : NumInUnit (toNum (clampUnit A u)) :=
    hA.numInUnit_toNum (hA.machineArith.inUnit_clampUnit hu)
  exact ⟨hclamped ha, hclamped hb, hclamped hc⟩

end Sys2Proof.Machine

/-! ## The min-max form (42 R147) -/

namespace Sys2Proof

/-- The duties of a command less their mean, which its projections give without a sector (42 R147). -/
noncomputable def Proj.zeroMean (t : Proj ℝ) : Duty ℝ :=
  { a := (t.tc - t.tb) / 3, b := (t.ta - t.tc) / 3, c := (t.tb - t.ta) / 3 }

/-- Half the sum of the largest and the smallest of three numbers. -/
noncomputable def Duty.midrange (u : Duty ℝ) : ℝ := (max u.a (max u.b u.c) + min u.a (min u.b u.c)) / 2

end Sys2Proof

namespace Sys2Proof.Machine

/-- The line-to-line differences and the mean determine the duties, whatever the common mode and the pair. -/
theorem dutyAssign_eq_zeroMean (ua ub vcm : ℝ) (p : Fin 6) :
    let o := (project realArith ua ub).zeroMean
    dutyAssign realArith p (pairCoeff realArith p (project realArith ua ub)) vcm =
      { a := 1 / 2 + vcm + o.a, b := 1 / 2 + vcm + o.b, c := 1 / 2 + vcm + o.c } := by
  obtain ⟨hab, hbc, hca, hmean⟩ := lineToLineInvariance ua ub vcm p
  generalize dutyAssign realArith p _ vcm = u at *
  obtain ⟨a, b, c⟩ := u
  simp only [Proj.zeroMean, Duty.mk.injEq]
  exact ⟨by linarith, by linarith, by linarith⟩

/-- R147: by R143 the bounds are read off the extreme duties, so their midpoint centres the duties about 1/2. -/
theorem svpwmRaw_eq_neg_midrange {ua ub : ℝ} {p : Fin 6} (h1 : 0 ≤ (pairCoeff realArith p (project realArith ua ub)).d1)
    (h2 : 0 ≤ (pairCoeff realArith p (project realArith ua ub)).d2) :
    svpwmRaw realArith (pairCoeff realArith p (project realArith ua ub)) =
      -(project realArith ua ub).zeroMean.midrange := by
  have hmin := dutyAssign_min h1 h2 p 0
  have hmax := dutyAssign_max h1 h2 p 0
  simp only [dutyAssign_eq_zeroMean, min_add_add_left, max_add_add_left] at hmin hmax
  rw [svpwmRaw_eq_midpoint, Duty.midrange]
  linarith

/-- In the linear region neither the clamp of the common mode nor the final clamp acts. -/
theorem finalDuty_svpwm_of_linear {d : Coeff ℝ} (h1 : 0 ≤ d.d1) (h2 : 0 ≤ d.d2) (hlinear : d.d1 + d.d2 ≤ 1) (p : Fin 6)
    (crossed : CmCrossed) (clamp : Bool) :
    finalDuty realArith clamp (dutyAssign realArith p d (cmSvpwm realArith crossed d (cmBounds realArith d))) =
      dutyAssign realArith p d (svpwmRaw realArith d) := by
  obtain ⟨hmin, hmax, hwidth⟩ := dutiesInRangeBetweenBounds p d (svpwmRaw realArith d) h1 h2
  have hmid := svpwmRaw_eq_midpoint d
  rw [cmSvpwm_of_ordered (by linarith)]
  exact finalDuty_of_mem (hmin.mpr (by linarith)) (hmax.mpr (by linarith)) clamp

/-- Settles O29: in the linear region, where `d1 + d2` is at most 1, no clamp acts, and the common mode is the shift. -/
theorem svpwmIsMinMaxForm : Obligations.SvpwmIsMinMaxForm := by
  intro c n ua ub t oa ob oc shift hlinear
  obtain ⟨h1, h2⟩ := coefficients_nonneg_real t
  have hsum := (coefficientSumIsLargestProjection ua ub).trans_le hlinear
  have hshift : svpwmRaw realArith _ = -shift := svpwmRaw_eq_neg_midrange h1 h2
  rw [modulation_of_finite realArith_finite]
  simp only [commonMode]
  rw [finalDuty_svpwm_of_linear h1 h2 hsum, dutyAssign_eq_zeroMean, hshift, Duty.mk.injEq]
  exact ⟨add_right_comm _ _ _, add_right_comm _ _ _, add_right_comm _ _ _⟩

/-! ## The source's first scenario (42 R149) -/

/-- A command whose modulation takes no free value from a fresh count leaves its results in every state. -/
theorem InFormat.leavesResult {s : State} {α : Type} {A : Arith α} {toNum : α → PortNum} (h : InFormat s.cfg A toNum)
    {mode : Mode} {a b : α} {m : Modulation α} (hacc : Accepted s.cfg (toNum a) (toNum b))
    (hm : modulation A s.cfg mode 0 a b = m) (hdraws : m.draws = 0) :
    LeavesResult s (modulateInstr mode (toNum a) (toNum b)) (sectorCode s.cfg.sectorScheme m.sectors)
      (toNum m.duty.a) (toNum m.duty.b) (toNum m.duty.c) := by
  subst hm
  refine ⟨_, (exec_modulateInstr _ _ _ _).trans (h.modulate_of_accepted hacc mode), ?_⟩
  rw [modulation_eq_of_no_draw hdraws]
  exact ⟨rfl, rfl, rfl, rfl⟩

/-- 95_test_vectors S1, run from a fresh count of free values. -/
theorem modulation_sourceScenarioOne :
    modulation (arith64 sqrt3Binary64) Config.default .svpwm 0 0x3FF0000000000000#64 0#64 =
      { sectors := { s6 := 5, s12 := 11 }
        duty := { a := 0x3FEDDB3D742C2655#64, b := 0x3FB126145E9ECD58#64, c := 0x3FB126145E9ECD58#64 }
        draws := 0 } := by decide +kernel

/-- Settles O41: the scenario's one modulation takes no free value. -/
theorem sourceScenarioOne : Obligations.SourceScenarioOne := by
  intro s hcfg
  have hformat : InFormat s.cfg (arith64 sqrt3Binary64) PortNum.b64 := .binary64 _ (congrArg Config.numFormat hcfg)
  have hm := modulation_sourceScenarioOne
  rw [← hcfg] at hm
  have hresult := hformat.leavesResult (.inl (congrArg Config.inputCheck hcfg)) hm rfl
  rw [hcfg] at hresult
  exact hresult

end Sys2Proof.Machine

/-! # 43_third_harmonic_injector: the selected bound, the held phase, the jump, and crossed bounds -/

/-! ## The selected bound (43 R160, R161) -/

namespace Sys2Proof.Machine

section

variable {α : Type} {b : Bounds α}

theorem cmThi_of_even {s12 : Fin 12} (h : thiIndex s12 % 2 = 0) : cmThi s12 b = b.v0min := if_pos h

theorem cmThi_of_odd {s12 : Fin 12} (h : thiIndex s12 % 2 = 1) : cmThi s12 b = b.v0max :=
  if_neg fun heven => zero_ne_one (heven.symm.trans h)

end

/-- Settles O30: R160 is the model's definition, and R161 lists the parity of the index of each sector. -/
theorem thirdHarmonicSelection : Obligations.ThirdHarmonicSelection := by
  refine fun α b => ⟨fun _ => rfl, fun s12 h => cmThi_of_even ?_, fun s12 h => cmThi_of_odd ?_⟩
  · rcases h with rfl | rfl | rfl | rfl | rfl | rfl <;> rfl
  · rcases h with rfl | rfl | rfl | rfl | rfl | rfl <;> rfl

/-! ## The held phase (43 R163, R165) -/

/-- A command over ℝ without the final clamp leaves the duties of its common mode, and its coefficients are not negative:
so R143 gives its extreme duties. -/
theorem modulation_unclamped_extremes {c : Config} (hclamp : c.clampDuty = false) (mode : Mode) (n : Nat) (ua ub : ℝ) :
    let m := modulation realArith c mode n ua ub
    let d := pairCoeff realArith (pairOf m.sectors.s12) (project realArith ua ub)
    let b := cmBounds realArith d
    let vcm := commonMode realArith c.cmCrossed mode m.sectors.s12 d b
    min m.duty.a (min m.duty.b m.duty.c) = vcm - b.v0min ∧ max m.duty.a (max m.duty.b m.duty.c) = 1 + vcm - b.v0max := by
  obtain ⟨h1, h2⟩ := coefficients_nonneg_real (project realArith ua ub)
  rw [modulation_of_finite realArith_finite, hclamp]
  exact ⟨dutyAssign_min h1 h2 _ _, dutyAssign_max h1 h2 _ _⟩

/-- Settles O31: the smallest duty is 0 at V0min and the largest is 1 at V0max, wherever the other bound lies. -/
theorem thirdHarmonicHoldsOnePhase : Obligations.ThirdHarmonicHoldsOnePhase := by
  intro c n ua ub hclamp m
  obtain ⟨hmin, hmax⟩ := modulation_unclamped_extremes hclamp .thipwm n ua ub
  refine ⟨fun heven => hmin.trans ?_, fun hodd => hmax.trans ?_⟩
  · rw [commonMode, cmThi_of_even heven, sub_self]
  · rw [commonMode, cmThi_of_odd hodd, add_sub_cancel_right]

/-! ## The jump within a pair (43 R164) -/

/-- The common mode shifts all three duties alike. -/
theorem dutyAssign_shift (p : Fin 6) (d : Coeff ℝ) (v w : ℝ) :
    let u := dutyAssign realArith p d v
    dutyAssign realArith p d w = { a := u.a + (w - v), b := u.b + (w - v), c := u.c + (w - v) } := by
  fin_cases p
  all_goals
    simp only [dutyAssign, dutyLadder_real, Duty.mk.injEq]
    exact ⟨by ring, by ring, by ring⟩

/-- The index of R160 steps up between the two sectors of a pair. -/
theorem thiIndex_succ_of_pair {even odd : Fin 12} (hpair : pairOf even = pairOf odd) (heven : even.val % 2 = 0)
    (hodd : odd.val % 2 = 1) : thiIndex odd = thiIndex even + 1 := by
  have hdiv : even.val / 2 = odd.val / 2 := congrArg Fin.val hpair
  unfold thiIndex
  omega

/-- So the two sectors of a pair select different bounds, one this way round and the next pair the other. -/
theorem abs_cmThi_sub_of_pair {even odd : Fin 12} (hpair : pairOf even = pairOf odd) (heven : even.val % 2 = 0)
    (hodd : odd.val % 2 = 1) (b : Bounds ℝ) : |cmThi odd b - cmThi even b| = |b.v0max - b.v0min| := by
  have hsucc := thiIndex_succ_of_pair hpair heven hodd
  rcases Nat.mod_two_eq_zero_or_one (thiIndex even) with h | h
  · rw [cmThi_of_even h, cmThi_of_odd (by omega)]
  · rw [cmThi_of_odd h, cmThi_of_even (by omega), abs_sub_comm]

/-- Settles O32: every duty moves by the change of the common mode, which is the width of the bounds. -/
theorem thirdHarmonicJump : Obligations.ThirdHarmonicJump := by
  intro d k even odd hk hk' heven hodd b u v
  have hv : v = { a := u.a + _, b := u.b + _, c := u.c + _ } := dutyAssign_shift k d (cmThi even b) (cmThi odd b)
  have hjump := abs_cmThi_sub_of_pair (hk.trans hk'.symm) heven hodd b
  rw [cmBounds_width] at hjump
  simp only [hv, add_sub_cancel_left, hjump, and_self]

/-! ## `CM_CROSSED_RESULT` (43 R165) -/

/-- The state of the same instance under another `CM_CROSSED_RESULT`. -/
def State.withCrossed (s : State) (crossed : CmCrossed) : State :=
  { s with cfg := { s.cfg with cmCrossed := crossed } }

theorem State.sameRegisters_withCrossed (s : State) (crossed : CmCrossed) : SameRegisters s (s.withCrossed crossed) :=
  ⟨rfl, rfl, rfl, rfl, rfl, rfl, rfl, rfl⟩

/-- The third-harmonic common mode does not read the parameter, and no other stage does. -/
theorem modulation_thipwm_withCrossed {α : Type} (A : Arith α) (s : State) (crossed : CmCrossed) (draws : Nat)
    (ua ub : α) :
    modulation A (s.withCrossed crossed).cfg .thipwm draws ua ub = modulation A s.cfg .thipwm draws ua ub := rfl

/-- The input check does not read it either. -/
theorem modulateIn_thipwm_withCrossed {α : Type} (A : Arith α) (toNum : α → PortNum) (ua ub : α) (s : State)
    (crossed : CmCrossed) :
    modulateIn A toNum .thipwm ua ub (s.withCrossed crossed) =
      (modulateIn A toNum .thipwm ua ub s).withCrossed crossed := by
  unfold modulateIn
  rw [apply_ite (State.withCrossed · crossed), modulation_thipwm_withCrossed]
  rfl

theorem modulate_thipwm_withCrossed {ua ub : PortNum} {s t : State} (h : modulate .thipwm ua ub s = .next t)
    (crossed : CmCrossed) : modulate .thipwm ua ub (s.withCrossed crossed) = .next (t.withCrossed crossed) := by
  obtain ⟨α, A, toNum, a, b, hA, rfl, rfl⟩ := modulate_next_inFormat h
  rw [hA.modulate_eq, Host.Outcome.next.injEq] at h
  have hA' : InFormat (s.withCrossed crossed).cfg A toNum := hA.of_numFormat_eq rfl
  rw [hA'.modulate_eq, modulateIn_thipwm_withCrossed, h]

/-- Settles O44: the two runs answer one state but for the parameter, whether the command is rejected, drawn or finite. -/
theorem thipwmIgnoresCrossedResult : Obligations.ThipwmIgnoresCrossedResult := by
  intro s t t' ua ub crossed h h'
  obtain rfl : t.withCrossed crossed = t' := Host.Outcome.next.inj ((modulate_thipwm_withCrossed h crossed).symm.trans h')
  exact t.sameRegisters_withCrossed crossed

end Sys2Proof.Machine

/-! # 44_space_vector_modulator: the commands, what a step completes, and sampling -/

/-! ## The results of a command (44 R171 to R174, R178, R179) -/

namespace Sys2Proof.Machine

/-- A command's writes leave its surroundings alone. -/
theorem SameSurroundings.commit (s : State) (ua ub : PortNum) (m : Modulation PortNum) :
    SameSurroundings s (s.commit ua ub m) := ⟨rfl, rfl, rfl⟩

/-- The input check does not turn an accepted command away. -/
theorem Accepted.not_rejected {c : Config} {ua ub : PortNum} (h : Accepted c ua ub) :
    ¬ (c.inputCheck = true ∧ (numFinite ua && numFinite ub) = false) := by
  rintro ⟨hcheck, hfinite⟩
  rcases h with hoff | ⟨ha, hb⟩
  · exact Bool.false_ne_true (hoff.symm.trans hcheck)
  · simp [ha, hb] at hfinite

/-- An accepted command whose operands the ports can carry writes the results of one modulation. -/
theorem modulate_commits {s : State} {ua ub : PortNum} (ha : s.cfg.numFormat.holds ua = true)
    (hb : s.cfg.numFormat.holds ub = true) (hacc : Accepted s.cfg ua ub) (mode : Mode) :
    ∃ m, modulate mode ua ub s = .next (s.commit ua ub m) ∧ s.cfg.numFormat.holds m.duty.a = true ∧
      s.cfg.numFormat.holds m.duty.b = true ∧ s.cfg.numFormat.holds m.duty.c = true := by
  obtain ⟨t, ht⟩ := modulate_next_of_holds mode ha hb
  obtain ⟨-, -, ⟨hcheck, hfinite, -⟩ | ⟨-, m, rfl, hduty⟩⟩ := modulate_next_cases ht
  · exact absurd ⟨hcheck, hfinite⟩ hacc.not_rejected
  · exact ⟨m, ht, hduty⟩

/-- Settles O35: what the command writes is a modulation in the instance's format, and any sector's code is valid. -/
theorem modulateCompletes : Obligations.ModulateCompletes := by
  intro s ua ub ha hb hacc i hi
  obtain ⟨mode, rfl⟩ : ∃ mode, i = modulateInstr mode ua ub := hi.elim (⟨.svpwm, ·⟩) (⟨.thipwm, ·⟩)
  obtain ⟨m, hm, hduty_a, hduty_b, hduty_c⟩ := modulate_commits ha hb hacc mode
  exact ⟨_, (exec_modulateInstr ..).trans hm, rfl, rfl, sectorCode_valid _ _, hduty_a, hduty_b, hduty_c, rfl,
    State.commit_err .., rfl, .commit ..⟩

/-- A command that the check lets through writes the results of its modulation. -/
theorem InFormat.exec_of_accepted {s : State} {α : Type} {A : Arith α} {toNum : α → PortNum} (h : InFormat s.cfg A toNum)
    {a b : α} (hacc : Accepted s.cfg (toNum a) (toNum b)) (mode : Mode) :
    exec (modulateInstr mode (toNum a) (toNum b)) s =
      .next (s.commit (toNum a) (toNum b) ((modulation A s.cfg mode s.draws a b).map toNum)) :=
  (exec_modulateInstr ..).trans (h.modulate_of_accepted hacc mode)

/-- The final clamp acts on each phase by itself. -/
theorem finalDuty_eq {α : Type} (A : Arith α) (clamp : Bool) (u : Duty α) :
    finalDuty A clamp u =
      { a := if clamp then clampUnit A u.a else u.a
        b := if clamp then clampUnit A u.b else u.b
        c := if clamp then clampUnit A u.c else u.c } := by
  cases clamp <;> rfl

/-- In either mode a finite path leaves the results of the stages, and no draw. -/
theorem definedResult (mode : Mode) : DefinedResult mode (modulateInstr mode) := by
  intro s α A toNum hA ua ub hacc k hpath p d vcm u
  have hfinal := finalDuty_eq A s.cfg.clampDuty u
  refine ⟨_, hA.exec_of_accepted hacc mode, ?_⟩
  rw [modulation_of_finitePath hpath]
  exact ⟨rfl, rfl, rfl, congrArg (toNum ∘ Duty.a) hfinal, congrArg (toNum ∘ Duty.b) hfinal,
    congrArg (toNum ∘ Duty.c) hfinal, rfl, State.commit_err .., rfl, .commit .., rfl⟩

/-- Settles O36: the finite path in SpaceVectorPWM mode. -/
theorem svpwmDefinedResult : Obligations.SvpwmDefinedResult := definedResult .svpwm

/-- Settles O37: the finite path in ThirdHarmonicInjectionPWM mode. -/
theorem thipwmDefinedResult : Obligations.ThipwmDefinedResult := definedResult .thipwm

end Sys2Proof.Machine

/-! ## `IDLE` (44 R173) -/

namespace Sys2Proof.Machine

/-- Settles O34: the command changes `done_o` alone. -/
theorem idleKeepsEverything : Obligations.IdleKeepsEverything := fun s =>
  ⟨s.setDone false, exec_idle s, ⟨rfl, rfl, rfl, rfl, rfl, rfl, rfl, rfl⟩, ⟨rfl, rfl, rfl⟩, rfl, rfl⟩

end Sys2Proof.Machine

/-! ## Values that are not finite (44 R174, R178) -/

namespace Sys2Proof.Machine

section

variable {L : IeeeLayout} {w : Nat}

/-- A packed pattern has the exponent of the fields it is packed from, whatever its sign. -/
theorem expField_pack (hw : w = 1 + L.expBits + L.fracBits) (neg : Bool) {fields : Nat}
    (h : fields < 2 ^ (L.expBits + L.fracBits)) : expField L (ieeePack L w neg fields) = fields / 2 ^ L.fracBits := by
  have hpow : 2 ^ w = 2 * 2 ^ (L.expBits + L.fracBits) := by rw [hw, add_assoc, Nat.pow_add, Nat.pow_one]
  have hfits : (if neg then 2 ^ (L.expBits + L.fracBits) else 0) + fields < 2 ^ w := by
    split <;> omega
  rw [Nat.pow_add] at h
  have hexp : fields / 2 ^ L.fracBits < 2 ^ L.expBits := Nat.div_lt_of_lt_mul (by rwa [Nat.mul_comm])
  rw [expField, ieeePack, BitVec.toNat_ofNat, Nat.mod_eq_of_lt hfits]
  cases neg with
  | false => simpa using Nat.mod_eq_of_lt hexp
  | true =>
    rw [if_pos rfl, Nat.pow_add, Nat.mul_comm, Nat.mul_add_div (by positivity), Nat.add_mod_left, Nat.mod_eq_of_lt hexp]

/-- A pattern whose exponent field is all ones is not finite. -/
theorem ieeeFinite_pack_infFields (hw : w = 1 + L.expBits + L.fracBits) (neg : Bool) {frac : Nat}
    (h : frac < 2 ^ L.fracBits) : ieeeFinite L (ieeePack L w neg (infFields L + frac)) = false := by
  have hexp : 1 ≤ 2 ^ L.expBits := Nat.one_le_two_pow
  have hfits : infFields L + frac < 2 ^ (L.expBits + L.fracBits) := by
    rw [infFields, Nat.pow_add]
    nlinarith [Nat.sub_add_cancel hexp]
  rw [ieeeFinite, expField_pack hw neg hfits, infFields, Nat.mul_comm, Nat.mul_add_div (by positivity),
    Nat.div_eq_of_lt h]
  simp

theorem ieeeFinite_eq_false_iff (x : BitVec w) :
    ieeeFinite L x = false ↔ ieeeValue L x = .nan ∨ ∃ s, ieeeValue L x = .inf s := by
  rw [← Bool.not_eq_true]
  cases hx : ieeeValue L x with
  | finite s m => simp [ieeeFinite_of_value hx]
  | inf s => simp [ieeeFinite_eq_true_iff, hx]
  | nan => simp [ieeeFinite_eq_true_iff, hx]

theorem ieeeFinite_inf (hw : w = 1 + L.expBits + L.fracBits) (s : Bool) : ieeeFinite L (ieeeInf L w s) = false :=
  ieeeFinite_pack_infFields hw s (Nat.two_pow_pos _)

theorem ieeeFinite_nan (hw : w = 1 + L.expBits + L.fracBits) (hfrac : 0 < L.fracBits) :
    ieeeFinite L (ieeeNan L w) = false :=
  ieeeFinite_pack_infFields hw false (Nat.pow_lt_pow_right Nat.one_lt_two (Nat.sub_one_lt hfrac.ne'))

variable {x y : BitVec w} (hw : w = 1 + L.expBits + L.fracBits) (hfrac : 0 < L.fracBits)
include hw hfrac

/-- A sum with a value that is not finite is not finite: the infinities add to one or to a NaN. -/
theorem ieeeFinite_add_of_left (hx : ieeeFinite L x = false) : ieeeFinite L (ieeeAdd L x y) = false := by
  unfold ieeeAdd
  obtain hx | ⟨s, hx⟩ := (ieeeFinite_eq_false_iff x).mp hx
  · simp only [hx, ieeeFinite_nan hw hfrac]
  · cases ieeeValue L y <;>
      simp only [hx, apply_ite (ieeeFinite L), ieeeFinite_inf hw, ieeeFinite_nan hw hfrac, ite_self]

/-- A product with a value that is not finite is not finite, even one with 0, which is a NaN. -/
theorem ieeeFinite_mul_of_right (hy : ieeeFinite L y = false) : ieeeFinite L (ieeeMul L x y) = false := by
  unfold ieeeMul
  obtain hy | ⟨t, hy⟩ := (ieeeFinite_eq_false_iff y).mp hy
  · cases ieeeValue L x <;> simp only [hy, ieeeFinite_nan hw hfrac]
  · cases ieeeValue L x <;>
      simp only [hy, apply_ite (ieeeFinite L), ieeeFinite_inf hw, ieeeFinite_nan hw hfrac, ite_self]

/-- Dividing by a finite value does not make a value finite. -/
theorem ieeeFinite_div_of_left (hx : ieeeFinite L x = false) (hy : ieeeFinite L y = true) :
    ieeeFinite L (ieeeDiv L x y) = false := by
  have hvalue := (ieeeFinite_eq_true_iff L y).mp hy
  unfold ieeeDiv
  obtain hx | ⟨s, hx⟩ := (ieeeFinite_eq_false_iff x).mp hx
  · simp only [hx, ieeeFinite_nan hw hfrac]
  · simp only [hx, hvalue, ieeeFinite_inf hw]

/-- An operand that is not finite reaches a projection: `ub` is one itself, and `ua` runs through the last of them. -/
theorem projFinite_ieeeArith_of_not_finite {sqrt3 ua ub : BitVec w} {draw : Nat → BitVec w}
    (htwo : ieeeFinite L (ieeeRound L w false 2) = true) (h : (ieeeFinite L ua && ieeeFinite L ub) = false) :
    projFinite (ieeeArith L w sqrt3 draw) (project (ieeeArith L w sqrt3 draw) ua ub) = false := by
  simp only [projFinite, project, ieeeArith]
  rcases Bool.and_eq_false_iff.mp h with ha | hb
  · have hproduct : ieeeFinite L (ieeeMul L sqrt3 ua) = false := ieeeFinite_mul_of_right hw hfrac ha
    have hdifference : ieeeFinite L (ieeeSub L (ieeeMul L sqrt3 ua) ub) = false :=
      ieeeFinite_add_of_left hw hfrac hproduct
    rw [ieeeFinite_div_of_left hw hfrac hdifference htwo, Bool.and_false]
  · rw [hb, Bool.false_and, Bool.false_and]

end

/-- 41 R117: in every number format an operand that is not finite makes a projection so. -/
theorem MachineArith.not_projFinite {α : Type} {A : Arith α} (hA : MachineArith A) {ua ub : α}
    (h : (A.finite ua && A.finite ub) = false) : projFinite A (project A ua ub) = false := by
  cases hA with
  | binary32 sqrt3 => exact projFinite_ieeeArith_of_not_finite rfl (by decide) (by decide +kernel) h
  | binary64 sqrt3 => exact projFinite_ieeeArith_of_not_finite rfl (by decide) (by decide +kernel) h
  | real o => exact absurd h (by simp [exactArithOf])

/-- Settles O38: an operand that is not finite makes a projection so, and then as with any other such value the command
takes the four draws. -/
theorem nonfiniteCommandDraws : Obligations.NonfiniteCommandDraws := by
  intro s α A toNum hA ua ub mode hacc hnonfinite
  have hpath : ¬ FinitePath A s.cfg mode (classifyTree A (project A ua ub)).s12 ua ub := by
    rcases hnonfinite with hoperand | hpath
    · exact fun hpath => Bool.false_ne_true ((hA.machineArith.not_projFinite hoperand).symm.trans
        (projFinite_of_allFinite hpath))
    · exact hpath
  refine ⟨_, hA.exec_of_accepted hacc mode, ?_⟩
  rw [modulation_of_not_finitePath hpath]
  exact ⟨rfl, rfl, rfl, rfl, rfl, rfl, rfl, State.commit_err .., rfl, rfl, .commit ..⟩

end Sys2Proof.Machine

/-! ## The zero command (44 R181, 43 R166) -/

namespace Sys2Proof.Machine

/-- What the zero command computes in either mode, from a fresh count of free values, for all values of the two
parameters that a modulation reads. -/
def ZeroCommand {α : Type} (A : Arith α) (zero half : α) : Prop :=
  ∀ (crossed : CmCrossed) (clamp : Bool),
    modulation A { Config.default with cmCrossed := crossed, clampDuty := clamp } .svpwm 0 zero zero =
      { sectors := { s6 := 5, s12 := 11 }, duty := { a := half, b := half, c := half }, draws := 0 } ∧
    modulation A { Config.default with cmCrossed := crossed, clampDuty := clamp } .thipwm 0 zero zero =
      { sectors := { s6 := 5, s12 := 11 }, duty := { a := zero, b := zero, c := zero }, draws := 0 }

theorem zeroCommand_arith64 : ZeroCommand (arith64 sqrt3Binary64) 0#64 0x3FE0000000000000#64 := by
  rintro (_ | _) (_ | _) <;> decide +kernel

theorem zeroCommand_arith32 : ZeroCommand (arith32 sqrt3Binary32) 0#32 0x3F000000#32 := by
  rintro (_ | _) (_ | _) <;> decide +kernel

theorem zeroCommand_exactArith : ZeroCommand exactArith (exactOfRat 0) (exactOfRat (1 / 2)) := by
  rintro (_ | _) (_ | _) <;> decide +kernel

/-- The zero command leaves in every state what it computes. -/
theorem InFormat.leavesResult_of_zeroCommand {s : State} {α : Type} {A : Arith α} {toNum : α → PortNum}
    (h : InFormat s.cfg A toNum) {zero half : α} (hfinite : numFinite (toNum zero) = true)
    (hzero : ZeroCommand A zero half) :
    let code := sectorCode s.cfg.sectorScheme { s6 := 5, s12 := 11 }
    LeavesResult s (.modulateSvpwm (toNum zero) (toNum zero)) code (toNum half) (toNum half) (toNum half) ∧
    LeavesResult s (.modulateThipwm (toNum zero) (toNum zero)) code (toNum zero) (toNum zero) (toNum zero) := by
  have hacc : Accepted s.cfg (toNum zero) (toNum zero) := .inr ⟨hfinite, hfinite⟩
  obtain ⟨hsvpwm, hthipwm⟩ := hzero s.cfg.cmCrossed s.cfg.clampDuty
  exact ⟨h.leavesResult (mode := .svpwm) hacc hsvpwm rfl, h.leavesResult (mode := .thipwm) hacc hthipwm rfl⟩

/-- Settles O40: the zero command's one modulation, computed in each number format. -/
theorem zeroCommandDuties : Obligations.ZeroCommandDuties := fun _ =>
  ⟨fun hf => (InFormat.binary64 _ hf).leavesResult_of_zeroCommand (by decide) zeroCommand_arith64,
    fun hf => (InFormat.binary32 _ hf).leavesResult_of_zeroCommand (by decide) zeroCommand_arith32,
    fun hf => (InFormat.real hf).leavesResult_of_zeroCommand rfl zeroCommand_exactArith⟩

end Sys2Proof.Machine

/-! ## What a step completes, and sampling (44 R176, R177) -/

namespace Sys2Proof.Machine

/-- A command writes all of its results together, or is turned away and sets `LAST_ERR` alone. -/
theorem modulate_writes_all_or_err {mode : Mode} {ua ub : PortNum} {s t : State}
    (h : modulate mode ua ub s = .next t) :
    (t.err = true ∧ SameRegisters s { t with lastErr := s.lastErr }) ∨
    (t.err = false ∧ t.resultValid = true ∧ t.lastUa = ua ∧ t.lastUb = ub) := by
  obtain ⟨-, -, ⟨hcheck, -, rfl⟩ | ⟨-, m, rfl, -⟩⟩ := modulate_next_cases h
  · exact .inl ⟨(State.raiseInvalidInput_err s).trans hcheck, rfl, rfl, rfl, rfl, rfl, rfl, rfl, rfl⟩
  · exact .inr ⟨State.commit_err .., rfl, rfl, rfl⟩

/-- The command due is the one presented to an idle block, or the one in flight. -/
theorem State.Due.presented_or_inFlight {s : State} {mode : Mode} {ua ub : PortNum} (h : s.Due mode ua ub) :
    (s.inFlight = none ∧ decodeWords s.presented.words = modulateInstr mode ua ub) ∨
    (∃ left, s.inFlight = some { mode := mode, ua := ua, ub := ub, left := left }) := by
  cases h with
  | flying p hp => exact .inr ⟨p.left, hp⟩
  | presented hidle hstart => exact .inl ⟨hidle, decodeWords_of_start hstart⟩

/-- The registers before a command are those the step began with: the host's move and the flight touch none. -/
theorem SameRegisters.of_hostAdvance {s t : State} {p : Option InFlight}
    (h : SameRegisters (s.hostAdvance.setInFlight p) t) : SameRegisters s t :=
  ⟨h.ua, h.ub, h.sector, h.ma, h.mb, h.mc, h.valid, h.err⟩

/-- Settles O54: a step without reset completes nothing, and changes no register, or it completes the command due. -/
theorem registersChangeTogether : Obligations.RegistersChangeTogether := by
  intro s t h hrst
  obtain ⟨hreset, -⟩ | ⟨-, p, rfl⟩ | ⟨-, mode, ua, ub, hdue, hm⟩ := step_outcomes h
  · exact absurd (hrst.symm.trans hreset) Bool.false_ne_true
  · exact ⟨fun _ => ⟨rfl, rfl, rfl, rfl, rfl, rfl, rfl, rfl⟩, fun hdone => absurd hdone Bool.false_ne_true⟩
  · obtain ⟨hdone, -⟩ := modulate_status hm
    exact ⟨fun hquiet => absurd (hquiet.symm.trans hdone) Bool.false_ne_true,
      fun _ => ⟨mode, ua, ub, hdue.presented_or_inFlight, hm,
        (modulate_writes_all_or_err hm).imp_left (And.imp_right SameRegisters.of_hostAdvance)⟩⟩

/-- Settles O52: with no faulting sample the step is the block's part of it, which does not read the samples. -/
theorem readingHasNoEffect : Obligations.ReadingHasNoEffect := by
  intro s h rest hreads
  calc step { s with host := h :: rest }
      = ({ s with host := rest } : State).cycle h := step_of_host rfl hreads
    _ = ({ s with host := rest } : State).cycle { h with reads := [] } := rfl
    _ = step { s with host := { h with reads := [] } :: rest } := Eq.symm (step_of_host rfl rfl)

end Sys2Proof.Machine

/-! # 60_exceptions -/

/-! ## Taking `InvalidInput` (60 R201) -/

namespace Sys2Proof.Machine

/-- With the check, taking `InvalidInput` writes `LAST_ERR` and `done_o` alone. -/
theorem State.raiseInvalidInput_of_inputCheck {s : State} (hcheck : s.cfg.inputCheck = true) :
    s.raiseInvalidInput = { s with lastErr := true, doneO := true } := by
  simp [State.raiseInvalidInput, State.writeErr, State.setDone, hcheck]

/-- The check turns away a command with an operand that is not finite. -/
theorem modulate_of_rejected {s : State} {ua ub : PortNum} (ha : s.cfg.numFormat.holds ua = true)
    (hb : s.cfg.numFormat.holds ub = true) (hcheck : s.cfg.inputCheck = true)
    (hnonfinite : (numFinite ua && numFinite ub) = false) (mode : Mode) :
    modulate mode ua ub s = .next s.raiseInvalidInput := by
  obtain ⟨t, ht⟩ := modulate_next_of_holds mode ha hb
  obtain ⟨-, -, ⟨-, -, rfl⟩ | ⟨hacc, -⟩⟩ := modulate_next_cases ht
  · exact ht
  · exact absurd ⟨hcheck, hnonfinite⟩ hacc.not_rejected

/-- Settles O39: the command is turned away in either mode, and that writes `LAST_ERR` and `done_o` alone. -/
theorem invalidInputOnlySetsError : Obligations.InvalidInputOnlySetsError := by
  intro s ua ub ha hb hcheck hnonfinite i hi
  obtain ⟨mode, rfl⟩ : ∃ mode, i = modulateInstr mode ua ub := hi.elim (⟨.svpwm, ·⟩) (⟨.thipwm, ·⟩)
  calc exec (modulateInstr mode ua ub) s
      = modulate mode ua ub s := exec_modulateInstr ..
    _ = .next s.raiseInvalidInput := modulate_of_rejected ha hb hcheck hnonfinite mode
    _ = .next { s with lastErr := true, doneO := true } := by rw [State.raiseInvalidInput_of_inputCheck hcheck]

end Sys2Proof.Machine

/-! # 70_reset_and_hazards: the reset step, and the state after it -/

/-! ## Reset (70 R220, R221) -/

namespace Sys2Proof.Machine

/-- While `RESULT_VALID = 0` a sample of a result port faults. -/
theorem readPort_of_not_valid {s : State} (h : s.resultValid = false) {p : OutPort} (hp : portIsResult p = true) :
    s.readPort p = .error .readUnwritten :=
  (readPort_eq_error_iff s p _).mpr ⟨rfl, hp, h⟩

/-- Reset wins over the command presented and over the one in flight (60 R203). -/
theorem cycle_of_rst {h : HostStep} (hrst : h.rst = true) (s : State) : s.cycle h = .next s.applyReset := by
  simp [State.cycle, hrst]

/-- Settles O48: the step is the reset of the state whose host has moved on. -/
theorem resetStep : Obligations.ResetStep := by
  intro s hreads hrst
  have hstep : step s = .next s.hostAdvance.applyReset := (step_of_readable hreads).trans (cycle_of_rst hrst _)
  exact ⟨_, hstep, rfl, State.applyReset_err _, rfl, rfl, rfl, rfl, rfl, fun _ => readPort_of_not_valid rfl⟩

/-! ## After reset (70 R222) -/

@[simp] theorem State.resetOf_err (c : Config) (hosts : List HostStep) : (State.resetOf c hosts).err = false := by
  simp [State.err, State.resetOf]

/-- Sampling `err_o` never faults: it shows `LAST_ERR`, or 0 where that is hardwired. -/
theorem readPort_err (s : State) : s.readPort .err = .ok (.bit s.err) := rfl

/-- Settles O49: the reset state shows its cleared bits, `done_o` is 0 already, and an accepted command commits. -/
theorem afterReset : Obligations.AfterReset := by
  intro c hosts s
  refine ⟨rfl, (readPort_err s).trans ?_, fun _ => readPort_of_not_valid rfl, exec_idle s, ?firstCommand⟩
  · rw [State.resetOf_err]
  case firstCommand =>
    intro ua ub mode ha hb hacc
    obtain ⟨m, hm, -⟩ := modulate_commits (s := s) ha hb hacc mode
    exact ⟨s.commit ua ub m, (exec_modulateInstr ..).trans hm, rfl, fun p => ⟨_, readPort_of_valid rfl p⟩⟩

end Sys2Proof.Machine

/-! # 30_encoding: commands and their frames -/

/-! ## Decoding undoes encoding, and encoding decoding (30_encoding R80, R81, R87) -/

namespace Sys2Proof

theorem encodeWords_modulateInstr (f : NumFormat) (mode : Mode) (ua ub : PortNum) :
    encodeWords f (modulateInstr mode ua ub) = { cmd := cmdOf true mode, ua := ua, ub := ub } := by
  cases mode <;> rfl

theorem decodeWords_encodeWords (f : NumFormat) (i : Instr) : decodeWords (encodeWords f i) = i := by
  cases i with
  | idle => exact decodeWords_idle .svpwm f.zero f.zero
  | modulateSvpwm ua ub => exact decodeWords_start .svpwm ua ub
  | modulateThipwm ua ub => exact decodeWords_start .thipwm ua ub

/-- The words of a command that the instance can be given fit its ports. -/
theorem encodeWords_wf {f : NumFormat} {i : Instr} (h : i.wf f = true) : (encodeWords f i).wf f = true := by
  cases i with
  | idle => simp [CmdWords.wf, encodeWords]
  | modulateSvpwm ua ub => exact h
  | modulateThipwm ua ub => exact h

/-- Words that fit the ports are a command that the instance can be given. -/
theorem decodeWords_wf {f : NumFormat} {w : CmdWords} (h : w.wf f = true) : (decodeWords w).wf f = true := by
  unfold decodeWords
  cases cmdStart w.cmd with
  | false => rfl
  | true => cases cmdMode w.cmd <;> exact h

/-- A number of a binary format has a pattern of `W` bits. -/
theorem exists_bitsOfNum {f : NumFormat} {width : Nat} {x : PortNum} (hwidth : f.width = some width)
    (hx : f.holds x = true) : ∃ n < 2 ^ width, bitsOfNum x = some n := by
  rcases Machine.holds_cases hx with ⟨c, w, rfl, rfl⟩ | ⟨c, w, rfl, rfl⟩ | ⟨e, rfl, rfl⟩ <;> cases hwidth
  · exact ⟨w.toNat, w.isLt, rfl⟩
  · exact ⟨w.toNat, w.isLt, rfl⟩

/-- A number is read from the low `W` bits alone. -/
theorem numOfBits_mod {f : NumFormat} {width : Nat} (hwidth : f.width = some width) (n : Nat) :
    numOfBits f (n % 2 ^ width) = numOfBits f n :=
  numOfBits_bitsOfNum (holds_numOfBits f n) (bitsOfNum_numOfBits hwidth n)

/-- The number of the frame `{cmd, ua, ub}` whose words have these values (30_encoding R81). -/
def frameNumber (width cmd a b : Nat) : Nat := (cmd * 2 ^ width + a) * 2 ^ width + b

/-- A frame is the number of its three parts. -/
theorem frameNumber_parts (width n : Nat) :
    frameNumber width (n / 2 ^ (2 * width)) (n / 2 ^ width % 2 ^ width) (n % 2 ^ width) = n := by
  rw [frameNumber, two_mul, Nat.pow_add, ← Nat.div_div_eq_div_mul, Nat.div_add_mod', Nat.div_add_mod']

theorem frameNumber_lt {width cmd a b : Nat} (hcmd : cmd < 4) (ha : a < 2 ^ width) (hb : b < 2 ^ width) :
    frameNumber width cmd a b < 2 ^ (2 + 2 * width) := by
  have hhigh : cmd * 2 ^ width + a < 4 * 2 ^ width := by nlinarith
  calc frameNumber width cmd a b
      < (cmd * 2 ^ width + a + 1) * 2 ^ width := by rw [frameNumber, Nat.succ_mul]; exact Nat.add_lt_add_left hb _
    _ ≤ 4 * 2 ^ width * 2 ^ width := Nat.mul_le_mul_right _ hhigh
    _ = 2 ^ (2 + 2 * width) := by ring

/-- The words of a frame are its three parts. -/
theorem frameWords_frameNumber {f : NumFormat} {width : Nat} (hwidth : f.width = some width) {cmd a b : Nat}
    (ha : a < 2 ^ width) (hb : b < 2 ^ width) : frameWords f width (frameNumber width cmd a b) =
      { cmd := BitVec.ofNat 2 cmd, ua := numOfBits f a, ub := numOfBits f b } := by
  have hhigh : frameNumber width cmd a b / 2 ^ width = cmd * 2 ^ width + a := by
    rw [frameNumber, Nat.mul_comm, Nat.mul_add_div (Nat.two_pow_pos width), Nat.div_eq_of_lt hb, Nat.add_zero]
  have hcmd : frameNumber width cmd a b / 2 ^ (2 * width) = cmd := by
    rw [two_mul, Nat.pow_add, ← Nat.div_div_eq_div_mul, hhigh, Nat.mul_comm,
      Nat.mul_add_div (Nat.two_pow_pos width), Nat.div_eq_of_lt ha, Nat.add_zero]
  rw [frameWords, hcmd, hhigh, ← numOfBits_mod hwidth (cmd * 2 ^ width + a), Nat.mul_add_mod', Nat.mod_eq_of_lt ha,
    ← numOfBits_mod hwidth (frameNumber width cmd a b), frameNumber, Nat.mul_add_mod', Nat.mod_eq_of_lt hb]

/-- The frame of a command is the number of its words' patterns. -/
theorem encodeFrame_eq {f : NumFormat} {width : Nat} (hwidth : f.width = some width) {i : Instr} {a b : Nat}
    (ha : bitsOfNum (encodeWords f i).ua = some a) (hb : bitsOfNum (encodeWords f i).ub = some b) :
    encodeFrame f i = some (frameNumber width (encodeWords f i).cmd.toNat a b) := by
  simp only [encodeFrame, hwidth, ha, hb, frameNumber]

/-- Settles O1: the words decode by their start and mode bits, and the frame's three parts are again the words. -/
theorem decodeEncodeRoundTrip : Obligations.DecodeEncodeRoundTrip := by
  intro f i hwf
  refine ⟨decodeWords_encodeWords f i, fun width hwidth => ?_⟩
  obtain ⟨hua, hub⟩ := Bool.and_eq_true_iff.mp (encodeWords_wf hwf)
  obtain ⟨a, ha, hbitsA⟩ := exists_bitsOfNum hwidth hua
  obtain ⟨b, hb, hbitsB⟩ := exists_bitsOfNum hwidth hub
  refine ⟨_, encodeFrame_eq hwidth hbitsA hbitsB, (decodeFrame_eq_ok_iff ..).mpr
    ⟨width, hwidth, rfl, frameNumber_lt (BitVec.isLt _) ha hb, ?_⟩⟩
  rw [frameWords_frameNumber hwidth ha hb, BitVec.ofNat_toNat, BitVec.setWidth_eq, numOfBits_bitsOfNum hua hbitsA,
    numOfBits_bitsOfNum hub hbitsB]
  exact decodeWords_encodeWords f i

/-! ## Every frame is a command (30_encoding R82, R88) -/

theorem frameWords_wf (f : NumFormat) (width n : Nat) : (frameWords f width n).wf f = true := by
  simp [CmdWords.wf, frameWords, holds_numOfBits]

/-- The command word of a frame is its two bits above the operands. -/
theorem frame_cmd_lt {width n : Nat} (hn : n < 2 ^ (2 + 2 * width)) : n / 2 ^ (2 * width) < 2 ^ 2 := by
  rw [Nat.div_lt_iff_lt_mul (Nat.two_pow_pos _)]
  rwa [Nat.pow_add] at hn

/-- The start bit of a frame is its most significant. -/
theorem cmdStart_frameWords (f : NumFormat) {width n : Nat} (hn : n < 2 ^ (2 + 2 * width)) :
    cmdStart (frameWords f width n).cmd = decide (2 ^ (1 + 2 * width) ≤ n) := by
  have hcmd := frame_cmd_lt hn
  have hstart : 2 ^ (1 + 2 * width) ≤ n ↔ 2 ≤ n / 2 ^ (2 * width) := by
    rw [Nat.le_div_iff_mul_le (Nat.two_pow_pos _), Nat.pow_add, pow_one]
  simp only [hstart, frameWords]
  generalize n / 2 ^ (2 * width) = cmd at hcmd
  interval_cases cmd <;> rfl

/-- A frame whose start bit is 1 is the frame of its command. -/
theorem encodeFrame_frameWords {f : NumFormat} {width n : Nat} (hwidth : f.width = some width)
    (hn : n < 2 ^ (2 + 2 * width)) (hstart : cmdStart (frameWords f width n).cmd = true) :
    encodeFrame f (decodeWords (frameWords f width n)) = some n := by
  have hwords : encodeWords f (decodeWords (frameWords f width n)) = frameWords f width n := by
    rw [Machine.decodeWords_of_start hstart, encodeWords_modulateInstr, ← hstart, cmdOf_fields]
  have hua := bitsOfNum_numOfBits hwidth (n / 2 ^ width)
  have hub := bitsOfNum_numOfBits hwidth n
  rw [encodeFrame_eq hwidth (by rwa [hwords]) (by rwa [hwords]), hwords]
  simp only [frameWords, BitVec.toNat_ofNat, Nat.mod_eq_of_lt (frame_cmd_lt hn), frameNumber_parts]

/-- Settles O2: a frame of the length decodes for its shape alone, and its start bit tells which of the two it is. -/
theorem everyFrameIsACommand : Obligations.EveryFrameIsACommand := by
  intro f width n hwidth hn
  have hstart := cmdStart_frameWords f hn
  refine ⟨decodeWords (frameWords f width n), (decodeFrame_eq_ok_iff ..).mpr ⟨width, hwidth, rfl, hn, rfl⟩,
    decodeWords_wf (frameWords_wf f width n), ?_⟩
  by_cases hle : 2 ^ (1 + 2 * width) ≤ n
  · exact .inr ⟨hle, encodeFrame_frameWords hwidth hn (hstart.trans (decide_eq_true hle))⟩
  · exact .inl ⟨not_le.mp hle, by simp [decodeWords, hstart, hle]⟩

/-! ## Words written out (95_test_vectors P1, P2, P6) -/

/-- Settles O5: the decoder evaluates each written word. -/
theorem writtenWordsDecode : Obligations.WrittenWordsDecode := by
  unfold Obligations.WrittenWordsDecode
  decide

end Sys2Proof

/-! # The invariant, and a host that keeps to the protocol (10_state, 70_reset_and_hazards) -/

/-! ## A command's outcome and the configuration (44 R179, 10_state R42) -/

namespace Sys2Proof.Machine

/-- `modulate` gives no meaning exactly where an operand is no number of the format. -/
theorem modulate_eq_refused_iff (mode : Mode) (ua ub : PortNum) (s : State) (r : Refusal) :
    modulate mode ua ub s = .refused r ↔
      r = .operandFormat ∧ (s.cfg.numFormat.holds ua && s.cfg.numFormat.holds ub) = false := by
  unfold modulate
  cases s.cfg.numFormat <;> cases ua <;> cases ub <;> simp [readOperands, NumFormat.holds, eq_comm]

/-- `IDLE` always answers, and a `modulate` answers unless an operand is of another format. -/
theorem exec_eq_refused_iff (i : Instr) (s : State) (r : Refusal) :
    exec i s = .refused r ↔ r = .operandFormat ∧ i.wf s.cfg.numFormat = false := by
  cases i with
  | idle => simp [Instr.wf]
  | modulateSvpwm ua ub => exact modulate_eq_refused_iff .svpwm ua ub s r
  | modulateThipwm ua ub => exact modulate_eq_refused_iff .thipwm ua ub s r

/-- Settles O46: no command faults, and an ill-formed one is the only one refused. -/
theorem commandsDoNotStop : Obligations.CommandsDoNotStop := fun i s => ⟨exec_ne_fault i s, exec_eq_refused_iff i s⟩

theorem modulate_cfg {mode : Mode} {ua ub : PortNum} {s t : State} (h : modulate mode ua ub s = .next t) :
    t.cfg = s.cfg := by
  obtain ⟨-, -, ⟨-, -, rfl⟩ | ⟨-, m, rfl, -⟩⟩ := modulate_next_cases h <;> rfl

/-- Settles O57: neither a reset, nor a step that completes nothing, nor a completed command writes it. -/
theorem configurationIsFixed : Obligations.ConfigurationIsFixed := by
  intro s t h
  obtain ⟨-, rfl⟩ | ⟨-, p, rfl⟩ | ⟨-, mode, ua, ub, -, hm⟩ := step_outcomes h
  · rfl
  · rfl
  · calc t.cfg = (s.hostAdvance.setInFlight none).cfg := modulate_cfg hm
      _ = s.cfg := rfl

/-! ## What keeps the invariant (10_state R33 to R40, 70 R224) -/

/-- The invariant speaks of the configuration, the registers and the command in flight alone: not of `RESULT_VALID`, of
`done_o`, of the draws or of the host. -/
theorem State.Inv.with_unconstrained {s : State} (h : s.Inv) (valid done : Bool) (draws : Nat) (host : List HostStep) :
    State.Inv { s with resultValid := valid, doneO := done, draws := draws, host := host } :=
  ⟨h.cfg_wf, h.ua_holds, h.ub_holds, h.ma_holds, h.mb_holds, h.mc_holds, h.sector_ok, h.err_wired, h.flight_ok⟩

theorem State.Inv.hostAdvance {s : State} (h : s.Inv) : s.hostAdvance.Inv :=
  h.with_unconstrained s.resultValid s.doneO s.draws s.host.tail

theorem State.Inv.setDone {s : State} (h : s.Inv) (b : Bool) : (s.setDone b).Inv :=
  h.with_unconstrained s.resultValid b s.draws s.host

theorem sectorCodeValid_zero (scheme : SectorScheme) : sectorCodeValid scheme 0#4 := by
  cases scheme <;> simp [sectorCodeValid]

/-- The state after reset, in a legal configuration: its placeholders are zeros of the format (log 3). -/
theorem State.inv_resetOf {c : Config} (hc : c.wf = true) (host : List HostStep) : (State.resetOf c host).Inv where
  cfg_wf := hc
  ua_holds := NumFormat.holds_zero c.numFormat
  ub_holds := NumFormat.holds_zero c.numFormat
  ma_holds := NumFormat.holds_zero c.numFormat
  mb_holds := NumFormat.holds_zero c.numFormat
  mc_holds := NumFormat.holds_zero c.numFormat
  sector_ok := sectorCodeValid_zero c.sectorScheme
  err_wired := fun _ => rfl
  flight_ok := fun _ hp => nomatch hp

theorem State.inv_applyReset {s : State} (hc : s.cfg.wf = true) : s.applyReset.Inv :=
  (State.inv_resetOf hc s.host).with_unconstrained false false s.draws s.host

/-- Settles O60: the reset state of every legal configuration, the default one among them. -/
theorem resetMeetsInvariant : Obligations.ResetMeetsInvariant :=
  ⟨fun _ hosts hc => State.inv_resetOf hc hosts, State.inv_resetOf (by decide) []⟩

/-- Taking a sound command in flight, or dropping the one there is. -/
theorem State.Inv.setInFlight {s : State} (h : s.Inv) {p : Option InFlight}
    (hp : ∀ q, p = some q → InFlight.Ok s.cfg q) : (s.setInFlight p).Inv :=
  ⟨h.cfg_wf, h.ua_holds, h.ub_holds, h.ma_holds, h.mb_holds, h.mc_holds, h.sector_ok, h.err_wired, hp⟩

theorem State.Inv.setInFlight_none {s : State} (h : s.Inv) : (s.setInFlight none).Inv :=
  h.setInFlight fun _ hq => nomatch hq

theorem State.Inv.setInFlight_some {s : State} (h : s.Inv) {p : InFlight} (hp : InFlight.Ok s.cfg p) :
    (s.setInFlight (some p)).Inv :=
  h.setInFlight fun _ hq => Option.some.inj hq ▸ hp

/-- A completed command writes numbers of the format and a code of the scheme, and `LAST_ERR` only where it is wired. -/
theorem State.Inv.modulate {mode : Mode} {ua ub : PortNum} {s t : State} (h : s.Inv)
    (ht : modulate mode ua ub s = .next t) : t.Inv := by
  obtain ⟨hua, hub, ⟨hcheck, -, rfl⟩ | ⟨-, m, rfl, ha, hb, hc⟩⟩ := modulate_next_cases ht
  · have hwired : s.cfg.inputCheck = false → s.raiseInvalidInput.lastErr = false := by simp [hcheck]
    exact ⟨h.cfg_wf, h.ua_holds, h.ub_holds, h.ma_holds, h.mb_holds, h.mc_holds, h.sector_ok, hwired, h.flight_ok⟩
  · have hwired : s.cfg.inputCheck = false → (s.commit ua ub m).lastErr = false := by simp +contextual [h.err_wired]
    exact ⟨h.cfg_wf, hua, hub, ha, hb, hc, sectorCode_valid _ m.sectors, hwired, h.flight_ok⟩

/-- A cycle of a sound command in flight completes it, or leaves it with fewer cycles to come, at least one. -/
theorem State.Inv.flightCycle {s t : State} {p : InFlight} {w : CmdWords} (h : s.Inv) (hp : s.inFlight = some p)
    (ht : s.flightCycle p w = .next t) : t.Inv := by
  obtain ⟨-, -, ⟨-, hm⟩ | ⟨hleft, rfl⟩⟩ := flightCycle_next ht
  · exact h.setInFlight_none.modulate hm
  · have hok := h.flight_ok p hp
    have hfewer : InFlight.Ok s.cfg { p with left := p.left - 1 } :=
      ⟨hok.ua_holds, hok.ub_holds, Nat.le_sub_one_of_lt hleft, (Nat.sub_le ..).trans_lt hok.left_lt⟩
    exact (h.setInFlight_some hfewer).setDone false

/-- A command accepted with `LATENCY > 1` is sound: its operands fit the ports, and cycles are to come. -/
theorem State.Inv.accept {s t : State} {w : CmdWords} (h : s.Inv) (hlat : 1 < s.cfg.latency)
    (ht : s.accept w = .next t) : t.Inv := by
  obtain ⟨hw, rfl⟩ := accept_next ht
  obtain ⟨hua, hub⟩ := Bool.and_eq_true_iff.mp hw
  exact (h.setInFlight_some ⟨hua, hub, Nat.le_sub_one_of_lt hlat, Nat.sub_one_lt_of_lt hlat⟩).setDone false

/-- Settles O59: each of the steps that answer a next state keeps the invariant. -/
theorem stepKeepsInvariant : Obligations.StepKeepsInvariant := by
  intro s t h ht
  obtain ⟨-, ⟨-, rfl⟩ | ⟨-, p, hp, hc⟩ | ⟨-, -, -, hlat, ha⟩ | ⟨-, -, -, rfl⟩ | ⟨-, -, -, -, hm⟩⟩ := step_next_cases ht
  · exact State.inv_applyReset (s := s.hostAdvance) h.cfg_wf
  · exact h.hostAdvance.flightCycle hp hc
  · exact h.hostAdvance.accept hlat ha
  · exact h.hostAdvance.setDone false
  · exact h.hostAdvance.modulate hm

/-! ## Steps that do not stop (44 R170, 70 R223, R224, R226) -/

/-- A step without a reset, of a block that is not busy and needs no second cycle, is the presented command's. -/
theorem cycle_of_idle {s : State} {h : HostStep} (hrst : h.rst = false) (hidle : s.inFlight = none)
    (hone : cmdStart h.words.cmd = false ∨ s.cfg.latency ≤ 1) : s.cycle h = exec (decodeWords h.words) s := by
  have hnow : ¬ (cmdStart h.words.cmd = true ∧ 1 < s.cfg.latency) := by
    rintro ⟨hstart, hlat⟩
    exact hone.elim (by simp [hstart]) hlat.not_ge
  simp [State.cycle, hrst, hidle, hnow]

/-- Settles O47: a readable step is the block's part of it, and that is the command's; a placed word is such a step. -/
theorem stepRunsDecoded : Obligations.StepRunsDecoded := by
  have hruns : ∀ s : State, s.readsFault s.presented.reads = false → s.presented.rst = false → s.inFlight = none →
      (cmdStart s.presented.words.cmd = false ∨ s.cfg.latency ≤ 1) →
      step s = exec (decodeWords s.presented.words) s.hostAdvance :=
    fun s hreads hrst hidle hone => (step_of_readable hreads).trans (cycle_of_idle hrst hidle hone)
  exact ⟨hruns, fun s nbits w hlat => hruns (s.withFetchWord nbits w) rfl rfl rfl (.inr hlat)⟩

/-- A command that the instance can be given answers a next state. -/
theorem exec_next_of_wf {i : Instr} {s : State} (h : i.wf s.cfg.numFormat = true) : ∃ t, exec i s = .next t := by
  cases he : exec i s with
  | next t => exact ⟨t, rfl⟩
  | fault r => exact absurd he (exec_ne_fault i s r)
  | refused r =>
    obtain ⟨-, hnot⟩ := (exec_eq_refused_iff i s r).mp he
    exact absurd h (by simp [hnot])

/-- The block's part of a step is not stopped by words that fit the ports and hold the command in flight. -/
theorem State.Inv.cycle_next {s : State} {h : HostStep} (hinv : s.Inv) (hfits : h.words.wf s.cfg.numFormat = true)
    (hquiet : ∀ p, s.inFlight = some p → h.rst = false → p.HeldBy h.words) : ∃ t, s.cycle h = .next t := by
  cases hrst : h.rst with
  | true => exact ⟨_, cycle_of_rst hrst s⟩
  | false =>
    cases hp : s.inFlight with
    | some p =>
      have hok := hinv.flight_ok p hp
      have hcycle : s.cycle h = s.flightCycle p h.words := by simp [State.cycle, hrst, hp]
      rw [hcycle, flightCycle_of_heldBy (hquiet p hp hrst)]
      split
      · exact modulate_next_of_holds p.mode hok.ua_holds hok.ub_holds
      · exact ⟨_, rfl⟩
    | none =>
      by_cases hone : cmdStart h.words.cmd = false ∨ s.cfg.latency ≤ 1
      · rw [cycle_of_idle hrst hp hone]
        exact exec_next_of_wf (decodeWords_wf hfits)
      · obtain ⟨hstart, hlat⟩ := not_or.mp hone
        exact ⟨_, by simp [State.cycle, hrst, hp, hstart, not_le.mp hlat, State.accept, hfits]; rfl⟩

/-- Settles O58: the samples do not fault, and the block's part of the step is not stopped. -/
theorem obedientHostNeverStops : Obligations.ObedientHostNeverStops := by
  intro s hinv hhost
  rw [step_of_readable hhost.reads]
  exact hinv.hostAdvance.cycle_next hhost.fits hhost.quiet

end Sys2Proof.Machine

/-! # 00_scope: the binary formats (R10, R11) -/

/-! ## Patterns from their fields (20_memory R61) -/

namespace Sys2Proof.Machine

/-- The fields of a binary interchange format fill its width, and its bias is the usual one: half the exponents lie
below it (20_memory R61). -/
structure IeeeLayout.Interchange (L : IeeeLayout) (w : Nat) : Prop where
  width        : w = 1 + L.expBits + L.fracBits
  frac_pos     : 0 < L.fracBits
  exponents    : 2 ^ L.expBits = 2 * L.bias + 2
  frac_lt_bias : L.fracBits < L.bias

theorem binary32_interchange : binary32Layout.Interchange 32 := ⟨rfl, by decide, rfl, by decide⟩

theorem binary64_interchange : binary64Layout.Interchange 64 := ⟨rfl, by decide, rfl, by decide⟩

section

variable {L : IeeeLayout} {w : Nat} (hL : L.Interchange w)
include hL

theorem IeeeLayout.Interchange.infFields_eq : infFields L = (2 * L.bias + 1) * 2 ^ L.fracBits := by
  rw [infFields, hL.exponents]; rfl

/-- The fields of an infinity leave room for a significand. -/
theorem IeeeLayout.Interchange.infFields_add_lt {frac : Nat} (h : frac < 2 ^ L.fracBits) :
    infFields L + frac < 2 ^ (L.expBits + L.fracBits) := by
  rw [hL.infFields_eq, Nat.pow_add, hL.exponents]
  nlinarith

theorem toNat_pack (neg : Bool) {fields : Nat} (h : fields < 2 ^ (L.expBits + L.fracBits)) :
    (ieeePack L w neg fields).toNat = (if neg then 2 ^ (L.expBits + L.fracBits) else 0) + fields := by
  have hpow : 2 ^ w = 2 * 2 ^ (L.expBits + L.fracBits) := by rw [hL.width, add_assoc, Nat.pow_add, Nat.pow_one]
  rw [ieeePack, BitVec.toNat_ofNat, Nat.mod_eq_of_lt (by split <;> omega)]

theorem signField_pack (neg : Bool) {fields : Nat} (h : fields < 2 ^ (L.expBits + L.fracBits)) :
    signField L (ieeePack L w neg fields) = neg := by
  rw [signField, toNat_pack hL neg h]
  cases neg with
  | false => simp [Nat.div_eq_of_lt h]
  | true => simp [Nat.add_div_left, Nat.div_eq_of_lt h]

theorem fracField_pack (neg : Bool) {fields : Nat} (h : fields < 2 ^ (L.expBits + L.fracBits)) :
    fracField L (ieeePack L w neg fields) = fields % 2 ^ L.fracBits := by
  rw [fracField, toNat_pack hL neg h]
  cases neg with
  | false => simp
  | true => simp [Nat.pow_add]

/-- The pattern of an exponent field of all ones is an infinity, and with a significand a NaN. -/
theorem ieeeValue_pack_infFields (neg : Bool) {frac : Nat} (h : frac < 2 ^ L.fracBits) :
    ieeeValue L (ieeePack L w neg (infFields L + frac)) = if frac = 0 then .inf neg else .nan := by
  have hfits := hL.infFields_add_lt h
  have hexp : (infFields L + frac) / 2 ^ L.fracBits = 2 ^ L.expBits - 1 := by
    rw [infFields, Nat.mul_comm, Nat.mul_add_div (Nat.two_pow_pos _), Nat.div_eq_of_lt h, Nat.add_zero]
  have hfrac : (infFields L + frac) % 2 ^ L.fracBits = frac := by
    rw [infFields, Nat.mul_add_mod', Nat.mod_eq_of_lt h]
  rw [ieeeValue, expField_pack hL.width neg hfits, fracField_pack hL neg hfits, signField_pack hL neg hfits, hexp,
    hfrac, if_pos rfl]

theorem ieeeValue_inf (neg : Bool) : ieeeValue L (ieeeInf L w neg) = .inf neg :=
  ieeeValue_pack_infFields hL neg (Nat.two_pow_pos _)

theorem ieeeValue_nan : ieeeValue L (ieeeNan L w) = .nan := by
  have hquiet : 2 ^ (L.fracBits - 1) < 2 ^ L.fracBits :=
    Nat.pow_lt_pow_right Nat.one_lt_two (Nat.sub_one_lt hL.frac_pos.ne')
  rw [ieeeNan, ieeeValue_pack_infFields hL false hquiet, if_neg (Nat.two_pow_pos _).ne']

/-- A pattern of fields below those of the infinity is finite. -/
theorem ieeeValue_pack_of_lt (neg : Bool) {fields : Nat} (h : fields < infFields L) :
    ieeeValue L (ieeePack L w neg fields) =
      .finite neg (fieldMagnitude L (fields / 2 ^ L.fracBits) (fields % 2 ^ L.fracBits)) := by
  have hfits : fields < 2 ^ (L.expBits + L.fracBits) := h.trans (hL.infFields_add_lt (Nat.two_pow_pos _))
  have hexp : fields / 2 ^ L.fracBits < 2 ^ L.expBits - 1 := Nat.div_lt_of_lt_mul (by rwa [Nat.mul_comm])
  rw [ieeeValue, expField_pack hL.width neg hfits, fracField_pack hL neg hfits, signField_pack hL neg hfits,
    if_neg hexp.ne]

theorem ieeeValue_pack_zero (neg : Bool) : ieeeValue L (ieeePack L w neg 0) = .finite neg 0 := by
  have hpos : 0 < infFields L := by rw [hL.infFields_eq]; positivity
  rw [ieeeValue_pack_of_lt hL neg hpos]
  simp [fieldMagnitude, scaledRat_eq]

/-! ## The ordered comparison (R11) -/

theorem orderedComparison : OrderedComparison L w := by
  refine ⟨?nan, ?finite, ?inf_inf, ?inf_finite, ?zeros⟩
  case nan =>
    intro x y hx
    constructor
    · simp only [ieeeLt, hx]
    · cases hy : ieeeValue L y <;> simp only [ieeeLt, hx, hy]
  case finite =>
    intro x y s t m n hx hy
    rw [ieeeLt_finite hx hy, decide_eq_true_eq]
  case inf_inf =>
    intro x y s t hx hy
    simp [ieeeLt, hx, hy]
  case inf_finite =>
    intro x y s t n hx hy
    simp [ieeeLt, hx, hy]
  case zeros =>
    have hzero : ieeeValue L 0#w = .finite false 0 := ieeeValue_pack_zero hL false
    intro x
    cases hx : ieeeValue L x <;> simp [ieeeLt, hx, hzero, ieeeValue_pack_zero hL true, signedRat]

/-! ## The operations (R10) -/

theorem roundsExactResult : RoundsExactResult L w := by
  intro x y s t m n hx hy
  have hneg : ieeeValue L (ieeeNeg L y) = .finite (!t) n := by rw [ieeeValue_neg L hL.width, hy]
  refine ⟨by simp only [ieeeAdd, hx, hy], ?sub, by simp only [ieeeMul, hx, hy], ?div, ?div_zero⟩
  case sub => simp only [ieeeSub, ieeeAdd, hx, hneg, signedRat_not, ← sub_eq_add_neg]
  case div =>
    intro hn
    simp only [ieeeDiv, hx, hy, if_neg hn]
  case div_zero =>
    intro hn
    simp only [ieeeDiv, hx, hy, if_pos hn, apply_ite (ieeeValue L), ieeeValue_nan hL, ieeeValue_inf hL]

theorem specialValues : SpecialValues L w where
  nan x y h := by
    rcases h with hx | hy
    · simp only [ieeeSub, ieeeAdd, ieeeMul, ieeeDiv, hx, ieeeValue_nan hL, and_self]
    · have hneg : ieeeValue L (ieeeNeg L y) = .nan := by rw [ieeeValue_neg L hL.width, hy]
      cases hx : ieeeValue L x <;>
        simp only [ieeeSub, ieeeAdd, ieeeMul, ieeeDiv, hx, hy, hneg, ieeeValue_nan hL, and_self]
  inf_inf x y s t hx hy := by
    have hneg : ieeeValue L (ieeeNeg L y) = .inf (!t) := by rw [ieeeValue_neg L hL.width, hy]
    simp only [ieeeSub, ieeeAdd, ieeeMul, ieeeDiv, hx, hy, hneg, apply_ite (ieeeValue L), ieeeValue_nan hL,
      ieeeValue_inf hL]
    cases s <;> cases t <;> simp
  inf_finite x y s t n hx hy := by
    have hneg : ieeeValue L (ieeeNeg L y) = .finite (!t) n := by rw [ieeeValue_neg L hL.width, hy]
    simp only [ieeeSub, ieeeAdd, ieeeMul, ieeeDiv, hx, hy, hneg, apply_ite (ieeeValue L), ieeeValue_nan hL,
      ieeeValue_inf hL, and_self]
  finite_inf x y s t m hx hy := by
    have hneg : ieeeValue L (ieeeNeg L y) = .inf (!t) := by rw [ieeeValue_neg L hL.width, hy]
    simp only [ieeeSub, ieeeAdd, ieeeMul, ieeeDiv, hx, hy, hneg, apply_ite (ieeeValue L), ieeeValue_nan hL,
      ieeeValue_inf hL, ieeeValue_pack_zero hL, and_self]
  neg x := ⟨signField_neg L hL.width x, expField_neg L hL.width x, fracField_neg L hL.width x⟩

end

/-- Settles O10: in either format the comparison goes by the values of its operands. -/
theorem comparisonsAreOrdered : Obligations.ComparisonsAreOrdered :=
  ⟨orderedComparison binary32_interchange, orderedComparison binary64_interchange⟩

/-- Settles O9: in either format each operation goes by the values of its operands. -/
theorem operationsRoundOnce : Obligations.OperationsRoundOnce :=
  ⟨⟨roundsExactResult binary32_interchange, specialValues binary32_interchange⟩,
    ⟨roundsExactResult binary64_interchange, specialValues binary64_interchange⟩⟩

end Sys2Proof.Machine

/-! ## The nearest integer, ties to even (R10) -/

namespace Sys2Proof.Machine

/-- `m` is the integer nearest to `x`, the even one of two equally near. -/
structure NearestEven (m : Nat) (x : ℚ) : Prop where
  near : |(m : ℚ) - x| ≤ 1 / 2
  even : |(m : ℚ) - x| = 1 / 2 → m % 2 = 0

/-- No integer is nearer, and none is as near unless `m` is even. -/
theorem NearestEven.le_abs {m : Nat} {x : ℚ} (h : NearestEven m x) (N : ℤ) :
    |(m : ℚ) - x| ≤ |(N : ℚ) - x| ∧ (|(m : ℚ) - x| = |(N : ℚ) - x| → (N : ℚ) = m ∨ m % 2 = 0) := by
  by_cases hN : N = m
  · simp [hN]
  · have hapart : (1 : ℚ) ≤ |(N : ℚ) - m| := by exact_mod_cast Int.one_le_abs (sub_ne_zero.mpr hN)
    have htriangle := abs_sub_le (N : ℚ) x m
    rw [abs_sub_comm x] at htriangle
    have hnear := h.near
    exact ⟨by linarith, fun htie => .inr (h.even (by linarith))⟩

/-- An even integer is reached from halfway below it on. -/
theorem NearestEven.le_iff {m N : Nat} {x : ℚ} (h : NearestEven m x) (hN : N % 2 = 0) :
    N ≤ m ↔ (N : ℚ) - 1 / 2 ≤ x := by
  obtain ⟨hlow, hhigh⟩ := abs_le.mp h.near
  constructor
  · intro hle
    have : (N : ℚ) ≤ m := by exact_mod_cast hle
    linarith
  · intro hx
    by_contra hlt
    have hm : (m : ℚ) + 1 ≤ N := by exact_mod_cast not_le.mp hlt
    have htie : (m : ℚ) - x = -(1 / 2) := by linarith
    have heven := h.even (by rw [htie, abs_neg, abs_of_pos one_half_pos])
    have hnext : (m : ℚ) + 1 = N := by linarith
    have : m + 1 = N := by exact_mod_cast hnext
    omega

/-- `m` is nearest when it is `c` parts of `d` away, at most half of them, and even if just half. -/
theorem nearestEven_of_distance {m c d : Nat} {x : ℚ} (hd : 0 < d) (hdist : |(m : ℚ) - x| = c / d) (hhalf : 2 * c ≤ d)
    (heven : 2 * c = d → m % 2 = 0) : NearestEven m x := by
  have hd' : (0 : ℚ) < d := by exact_mod_cast hd
  have hhalf' : (2 : ℚ) * c ≤ d := by exact_mod_cast hhalf
  constructor
  · rw [hdist, div_le_iff₀ hd']
    linarith
  · rw [hdist, div_eq_iff hd'.ne']
    intro htie
    exact heven (by exact_mod_cast (by linarith : (2 : ℚ) * c = d))

theorem roundHalfEven_nearest (n : Nat) {d : Nat} (hd : 0 < d) : NearestEven (roundHalfEven n d) ((n : ℚ) / d) := by
  have hd' : (d : ℚ) ≠ 0 := by exact_mod_cast hd.ne'
  have hn : (n : ℚ) = d * (n / d : Nat) + (n % d : Nat) := by exact_mod_cast (Nat.div_add_mod n d).symm
  have hr : n % d < d := Nat.mod_lt n hd
  rw [roundHalfEven, hn]
  generalize n / d = a
  generalize n % d = r at hr
  split
  · have hdist : ((a + 1 : Nat) : ℚ) - (d * a + r) / d = (d - r : Nat) / d := by
      rw [Nat.cast_sub hr.le]; push_cast; field_simp; ring
    exact nearestEven_of_distance hd (by rw [hdist, abs_of_nonneg (by positivity)]) (by omega) (by omega)
  · have hdist : (a : ℚ) - (d * a + r) / d = -(r / d) := by field_simp; ring
    exact nearestEven_of_distance hd (by rw [hdist, abs_neg, abs_of_nonneg (by positivity)]) (by omega) (by omega)

theorem roundScaled_nearest (n : Nat) {d : Nat} (hd : 0 < d) (k : Int) :
    NearestEven (roundScaled n d k) ((n : ℚ) / d / 2 ^ k) := by
  cases k with
  | ofNat k =>
    have h := roundHalfEven_nearest n (Nat.mul_pos hd (Nat.two_pow_pos k))
    rwa [Nat.cast_mul, Nat.cast_pow, Nat.cast_ofNat, ← div_div, ← zpow_natCast] at h
  | negSucc k =>
    have h := roundHalfEven_nearest (n * 2 ^ (k + 1)) hd
    rwa [Nat.cast_mul, Nat.cast_pow, Nat.cast_ofNat, mul_div_right_comm, ← div_inv_eq_mul, ← zpow_negSucc] at h

/-! ## The binade of a number -/

theorem powLe_iff (n : Nat) {d : Nat} (hd : 0 < d) (l : Int) : powLe n d l = true ↔ (2 : ℚ) ^ l ≤ n / d := by
  have hd' : (0 : ℚ) < d := by exact_mod_cast hd
  rw [le_div_iff₀ hd']
  cases l with
  | ofNat k =>
    rw [powLe, decide_eq_true_eq, ← Nat.cast_le (α := ℚ)]
    simp [mul_comm]
  | negSucc k =>
    rw [powLe, decide_eq_true_eq, ← Nat.cast_le (α := ℚ), zpow_negSucc, inv_mul_le_iff₀ (by positivity)]
    simp [mul_comm]

/-- `2 ^ floorLog2 n d` is the greatest power of two up to `n / d`. -/
theorem floorLog2_spec {n d : Nat} (hn : 0 < n) (hd : 0 < d) :
    (2 : ℚ) ^ floorLog2 n d ≤ n / d ∧ (n : ℚ) / d < 2 ^ (floorLog2 n d + 1) := by
  have hd' : (0 : ℚ) < d := by exact_mod_cast hd
  have two_ne : (2 : ℚ) ≠ 0 := two_ne_zero
  set l : Int := (Nat.log2 n : Int) - Nat.log2 d with hl
  have hbelow : (2 : ℚ) ^ (l - 1) ≤ n / d := by
    have hdlt : (d : ℚ) < 2 ^ ((Nat.log2 d : Int) + 1) := by exact_mod_cast Nat.lt_log2_self (n := d)
    have hnge : (2 : ℚ) ^ (Nat.log2 n : Int) ≤ n := by exact_mod_cast Nat.log2_self_le hn.ne'
    rw [le_div_iff₀ hd']
    calc (2 : ℚ) ^ (l - 1) * d ≤ 2 ^ (l - 1) * 2 ^ ((Nat.log2 d : Int) + 1) := by gcongr
      _ = 2 ^ (Nat.log2 n : Int) := by rw [← zpow_add₀ two_ne]; congr 1; omega
      _ ≤ n := hnge
  have habove : (n : ℚ) / d < 2 ^ (l + 1) := by
    have hdge : (2 : ℚ) ^ (Nat.log2 d : Int) ≤ d := by exact_mod_cast Nat.log2_self_le hd.ne'
    have hnlt : (n : ℚ) < 2 ^ ((Nat.log2 n : Int) + 1) := by exact_mod_cast Nat.lt_log2_self (n := n)
    rw [div_lt_iff₀ hd']
    calc (n : ℚ) < 2 ^ ((Nat.log2 n : Int) + 1) := hnlt
      _ = 2 ^ (l + 1) * 2 ^ (Nat.log2 d : Int) := by rw [← zpow_add₀ two_ne]; congr 1; omega
      _ ≤ 2 ^ (l + 1) * d := by gcongr
  rw [floorLog2]
  simp only [← hl]
  split
  · rename_i hle
    exact ⟨(powLe_iff n hd l).mp hle, habove⟩
  · rename_i hnot
    rw [sub_add_cancel]
    exact ⟨hbelow, not_le.mp fun hle => hnot ((powLe_iff n hd l).mpr hle)⟩

/-! ## The quantum a number is rounded to, and the multiple of it (R10) -/

/-- `x` is rounded to `m` quanta of `2 ^ k`: the quantum is that of `x`'s own binade, or the least there is (gradual
underflow), and `m` is the nearest, ties to even. -/
structure RoundsTo (L : IeeeLayout) (x : ℚ) (k : ℤ) (m : Nat) : Prop where
  quantum_ge : minQuantum L ≤ k
  binade_le  : k = minQuantum L ∨ (2 : ℚ) ^ (k + L.fracBits) ≤ x
  lt_binade  : x < 2 ^ (k + L.fracBits + 1)
  nearest    : NearestEven m (x / 2 ^ k)

/-- The exponent and significand fields of `m` quanta of `2 ^ k`; a significand that fills up carries into the
exponent. -/
def quantaFields (L : IeeeLayout) (k : ℤ) (m : Nat) : Nat := (k - minQuantum L).toNat * 2 ^ L.fracBits + m

theorem roundsTo_quantumExp (L : IeeeLayout) {n d : Nat} (hn : 0 < n) (hd : 0 < d) :
    RoundsTo L (n / d) (quantumExp L n d) (roundScaled n d (quantumExp L n d)) := by
  obtain ⟨hle, hlt⟩ := floorLog2_spec hn hd
  refine ⟨le_max_right _ _, ?_, ?_, roundScaled_nearest n hd _⟩
  · rcases le_total (floorLog2 n d - L.fracBits) (minQuantum L) with h | h
    · exact .inl (max_eq_right h)
    · right
      rwa [quantumExp, max_eq_left h, sub_add_cancel]
  · refine hlt.trans_le (zpow_le_zpow_right₀ one_le_two ?_)
    have := le_max_left (floorLog2 n d - L.fracBits) (minQuantum L)
    rw [quantumExp]
    omega

namespace RoundsTo

variable {L : IeeeLayout} {x : ℚ} {k : ℤ} {m : Nat}

/-- At most one quantum more than the binade holds, when the significand fills up. -/
theorem quanta_le (h : RoundsTo L x k m) : m ≤ 2 ^ (L.fracBits + 1) := by
  have hlt : x / 2 ^ k < 2 ^ (L.fracBits + 1) := by
    rw [div_lt_iff₀ (by positivity), ← zpow_natCast, ← zpow_add₀ two_ne_zero]
    have hexp : ((L.fracBits + 1 : Nat) : ℤ) + k = k + L.fracBits + 1 := by omega
    rw [hexp]
    exact h.lt_binade
  have hnear := (abs_le.mp h.nearest.near).2
  have : (m : ℚ) < (2 ^ (L.fracBits + 1) : Nat) + 1 := by push_cast; linarith
  exact Nat.le_of_lt_succ (by exact_mod_cast this)

/-- Above the least quantum the significand is normal. -/
theorem quanta_ge (h : RoundsTo L x k m) : k = minQuantum L ∨ 2 ^ L.fracBits ≤ m := by
  refine h.binade_le.imp_right fun hle => ?_
  have hge : (2 : ℚ) ^ L.fracBits ≤ x / 2 ^ k := by
    rwa [le_div_iff₀ (by positivity), ← zpow_natCast, ← zpow_add₀ two_ne_zero, add_comm]
  have hnear := (abs_le.mp h.nearest.near).1
  have : ((2 ^ L.fracBits : Nat) : ℚ) < m + 1 := by push_cast; linarith
  exact Nat.le_of_lt_succ (by exact_mod_cast this)

/-- The fields of the rounded number have its magnitude, after a carry too. -/
theorem fieldMagnitude_quantaFields (h : RoundsTo L x k m) :
    fieldMagnitude L (quantaFields L k m / 2 ^ L.fracBits) (quantaFields L k m % 2 ^ L.fracBits) = m * 2 ^ k := by
  have hk : k = minQuantum L + ((k - minQuantum L).toNat : ℤ) := by have := h.quantum_ge; omega
  have hle := h.quanta_le
  have hge : (k - minQuantum L).toNat = 0 ∨ 2 ^ L.fracBits ≤ m := h.quanta_ge.imp_left fun h0 => by simp [h0]
  rw [quantaFields, Nat.mul_comm, Nat.mul_add_div (Nat.two_pow_pos _), Nat.mul_add_mod]
  conv_rhs => rw [hk]
  generalize (k - minQuantum L).toNat = j at hge
  have hm := Nat.div_add_mod m (2 ^ L.fracBits)
  have hr := Nat.mod_lt m (Nat.two_pow_pos L.fracBits)
  have hq : m / 2 ^ L.fracBits ≤ 2 := Nat.div_le_of_le_mul (by rwa [pow_succ] at hle)
  generalize m / 2 ^ L.fracBits = q at *
  generalize m % 2 ^ L.fracBits = r at *
  have hm' : (m : ℚ) = 2 ^ L.fracBits * q + r := by exact_mod_cast hm.symm
  interval_cases q
  · have hj : j = 0 := hge.resolve_right (by omega)
    simp [fieldMagnitude, scaledRat_eq, hj, hm']
  · simp [fieldMagnitude, scaledRat_eq, hm']
  · have hr0 : r = 0 := by rw [pow_succ] at hle; omega
    have hcarry : (2 : ℚ) ^ (minQuantum L + ((j + 2 - 1 : Nat) : ℤ)) = 2 ^ (minQuantum L + (j : ℤ)) * 2 := by
      rw [← zpow_add_one₀ two_ne_zero]; congr 1; omega
    rw [fieldMagnitude, if_neg (by omega), scaledRat_eq, hcarry, hm', hr0]
    push_cast
    ring

/-- No multiple of the quantum is nearer, and none is as near unless `m` is even. -/
theorem le_abs_multiple (h : RoundsTo L x k m) (N : ℤ) :
    |(m : ℚ) * 2 ^ k - x| ≤ |(N : ℚ) * 2 ^ k - x| ∧
      (|(m : ℚ) * 2 ^ k - x| = |(N : ℚ) * 2 ^ k - x| → (N : ℚ) = m ∨ m % 2 = 0) := by
  have hpos : (0 : ℚ) < 2 ^ k := by positivity
  have hscale (y : ℚ) : |y * 2 ^ k - x| = |y - x / 2 ^ k| * 2 ^ k := by
    rw [← abs_of_pos hpos, ← abs_mul, abs_of_pos hpos, sub_mul, div_mul_cancel₀ x hpos.ne']
  obtain ⟨hle, htie⟩ := h.nearest.le_abs N
  rw [hscale, hscale]
  exact ⟨mul_le_mul_of_nonneg_right hle hpos.le, fun heq => htie (mul_right_cancel₀ hpos.ne' heq)⟩

end RoundsTo

/-! ## The finite values (20_memory R61) -/

/-- A number of the format's precision: an integer of at most `fracBits + 1` bits times a quantum. -/
def OnGrid (L : IeeeLayout) (v : ℚ) : Prop :=
  ∃ N k : ℤ, |(N : ℚ)| < 2 ^ (L.fracBits + 1) ∧ minQuantum L ≤ k ∧ v = N * 2 ^ k

theorem OnGrid.signedRat {L : IeeeLayout} {v : ℚ} (h : OnGrid L v) (s : Bool) : OnGrid L (signedRat s v) := by
  obtain ⟨N, k, hN, hk, rfl⟩ := h
  cases s with
  | false => exact ⟨N, k, hN, hk, rfl⟩
  | true => exact ⟨-N, k, by simpa using hN, hk, by simp [Machine.signedRat]⟩

theorem onGrid_of_finite {L : IeeeLayout} {w : Nat} {y : BitVec w} {t : Bool} {v : ℚ}
    (h : ieeeValue L y = .finite t v) : OnGrid L v := by
  have hfinite := (ieeeFinite_eq_true_iff L y).mp (ieeeFinite_of_value h).1
  obtain ⟨-, rfl⟩ := IeeeValue.finite.inj (hfinite.symm.trans h)
  have hfrac : ((fracField L y : Nat) : ℚ) < 2 ^ L.fracBits := by exact_mod_cast Nat.mod_lt _ (Nat.two_pow_pos _)
  unfold fieldMagnitude
  split
  · refine ⟨fracField L y, minQuantum L, ?_, le_rfl, by simp [scaledRat_eq]⟩
    rw [Int.cast_natCast, abs_of_nonneg (by positivity), pow_succ]
    linarith [pow_pos (two_pos (α := ℚ)) L.fracBits]
  · refine ⟨(2 ^ L.fracBits + fracField L y : Nat), _, ?_, le_add_of_nonneg_right (Int.natCast_nonneg _), by
      rw [scaledRat_eq, Int.cast_natCast]⟩
    rw [Int.cast_natCast, abs_of_nonneg (by positivity), pow_succ]
    push_cast
    linarith

/-- No number of the format is nearer than the rounded one, and none is as near unless `m` is even. One of a finer
quantum lies below the binade of `x`, so the least number of the binade is nearer. -/
theorem RoundsTo.le_abs_of_onGrid {L : IeeeLayout} {x v : ℚ} {k : ℤ} {m : Nat} (h : RoundsTo L x k m)
    (hv : OnGrid L v) :
    |(m : ℚ) * 2 ^ k - x| ≤ |v - x| ∧ (|(m : ℚ) * 2 ^ k - x| = |v - x| → v = m * 2 ^ k ∨ m % 2 = 0) := by
  obtain ⟨N, k', hN, hk', rfl⟩ := hv
  by_cases hkk : k ≤ k'
  · obtain ⟨j, rfl⟩ := Int.le.dest hkk
    have hmultiple : (N : ℚ) * 2 ^ (k + j) = ((N * 2 ^ j : ℤ) : ℚ) * 2 ^ k := by
      rw [zpow_add₀ two_ne_zero, zpow_natCast]; push_cast; ring
    rw [hmultiple]
    obtain ⟨hle, htie⟩ := h.le_abs_multiple (N * 2 ^ j)
    exact ⟨hle, fun heq => (htie heq).imp_left fun hN => by rw [hN]⟩
  · have hbinade : (2 : ℚ) ^ (k + L.fracBits) ≤ x := h.binade_le.resolve_left (by omega)
    have hfiner : (N : ℚ) * 2 ^ k' < 2 ^ (k + L.fracBits) :=
      calc (N : ℚ) * 2 ^ k' ≤ |(N : ℚ)| * 2 ^ k' := by gcongr; exact le_abs_self _
        _ < 2 ^ (L.fracBits + 1) * 2 ^ k' := by gcongr
        _ = 2 ^ (k' + 1 + L.fracBits) := by rw [← zpow_natCast, ← zpow_add₀ two_ne_zero]; congr 1; push_cast; ring
        _ ≤ 2 ^ (k + L.fracBits) := zpow_le_zpow_right₀ one_le_two (by omega)
    have hleast : ((2 ^ L.fracBits : ℤ) : ℚ) * 2 ^ k = 2 ^ (k + L.fracBits) := by
      rw [zpow_add₀ two_ne_zero]; push_cast; rw [zpow_natCast]; ring
    have hnear := (h.le_abs_multiple (2 ^ L.fracBits)).1
    rw [hleast, abs_of_nonpos (sub_nonpos.mpr hbinade)] at hnear
    have hstrict : |(m : ℚ) * 2 ^ k - x| < |(N : ℚ) * 2 ^ k' - x| := by
      rw [abs_of_neg (a := (N : ℚ) * 2 ^ k' - x) (by linarith)]
      linarith
    exact ⟨hstrict.le, fun heq => absurd heq hstrict.ne⟩

/-! ## Signs -/

/-- A distance does not change when both numbers take the same sign. -/
theorem abs_signedRat_sub (s : Bool) (u v : ℚ) : |signedRat s u - signedRat s v| = |u - v| := by
  cases s with
  | false => rfl
  | true => simp only [signedRat, if_true, neg_sub_neg, abs_sub_comm]

theorem signedRat_signedRat (s : Bool) (v : ℚ) : signedRat s (signedRat s v) = v := by cases s <;> simp [signedRat]

theorem signedRat_abs (q : ℚ) : signedRat (decide (q < 0)) |q| = q := by
  by_cases hq : q < 0
  · simp [signedRat, hq, abs_of_neg hq]
  · simp [signedRat, hq, abs_of_nonneg (not_lt.mp hq)]

/-- The rounded number with the sign of `q` is a nearest to `q`, for its magnitude is to that of `q`. -/
theorem RoundsTo.le_abs_signed {L : IeeeLayout} {q v : ℚ} {k : ℤ} {m : Nat} (h : RoundsTo L |q| k m) (hv : OnGrid L v) :
    |signedRat (decide (q < 0)) (m * 2 ^ k) - q| ≤ |v - q| ∧
      (|signedRat (decide (q < 0)) (m * 2 ^ k) - q| = |v - q| →
        signedRat (decide (q < 0)) (m * 2 ^ k) = v ∨ m % 2 = 0) := by
  obtain ⟨hle, htie⟩ := h.le_abs_of_onGrid (hv.signedRat (decide (q < 0)))
  have hsigned (u : ℚ) : |signedRat (decide (q < 0)) u - q| = abs (u - |q|) := by
    rw [← abs_signedRat_sub (decide (q < 0)) u, signedRat_abs]
  have hv' := hsigned (signedRat (decide (q < 0)) v)
  rw [signedRat_signedRat] at hv'
  rw [hsigned, hv']
  refine ⟨hle, fun heq => (htie heq).imp_left fun hgrid => ?_⟩
  rw [← hgrid, signedRat_signedRat]

/-! ## Overflow, and the pattern of the rounded number (R10) -/

/-- `RN` of a number that is not 0 packs its sign with the fields of its rounded magnitude, or of the infinity. -/
theorem ieeeRound_of_ne_zero (L : IeeeLayout) (w : Nat) (zeroNeg : Bool) {q : ℚ} (hq : q ≠ 0) :
    ∃ k m, RoundsTo L |q| k m ∧
      ieeeRound L w zeroNeg q = ieeePack L w (decide (q < 0)) (min (quantaFields L k m) (infFields L)) := by
  have hnum : q.num ≠ 0 := Rat.num_ne_zero.mpr hq
  have habs : |q| = (q.num.natAbs : ℚ) / q.den := by rw [Rat.abs_def, Rat.divInt_eq_div]; rfl
  refine ⟨_, _, habs ▸ roundsTo_quantumExp L (Int.natAbs_pos.mpr hnum) q.den_pos, ?_⟩
  rw [ieeeRound, if_neg hnum]
  simp only [Rat.num_neg]
  rfl

section

variable {L : IeeeLayout} {w : Nat} (hL : L.Interchange w)
include hL

/-- The threshold is half a quantum of the last binade below the power of two above it. -/
theorem overflowThreshold_eq :
    overflowThreshold L = ((2 ^ (L.fracBits + 1) : Nat) - 1 / 2 : ℚ) * 2 ^ ((L.bias : ℤ) - L.fracBits) := by
  have hexp : (2 : ℚ) ^ ((L.bias : ℤ) - L.fracBits) = 2 ^ (L.bias - L.fracBits - 1) * 2 := by
    have := hL.frac_lt_bias
    rw [← pow_succ, ← zpow_natCast]
    congr 1
    omega
  rw [overflowThreshold, hexp]
  push_cast
  ring

/-- The rounded number reaches the infinity's fields from the threshold on: never in a binade below the last, always
above it, and in the last when the significand fills up. -/
theorem RoundsTo.infFields_le_iff {x : ℚ} {k : ℤ} {m : Nat} (h : RoundsTo L x k m) :
    infFields L ≤ quantaFields L k m ↔ overflowThreshold L ≤ x := by
  have hthreshold := overflowThreshold_eq hL
  have hbias := hL.frac_lt_bias
  have hmin : minQuantum L = 1 - L.bias - L.fracBits := rfl
  have hle := h.quanta_le
  have hlast : (0 : ℚ) < 2 ^ ((L.bias : ℤ) - L.fracBits) := by positivity
  have hfull : (1 : ℚ) ≤ 2 ^ L.fracBits := one_le_pow₀ one_le_two
  rw [hL.infFields_eq, quantaFields]
  rcases lt_trichotomy k ((L.bias : ℤ) - L.fracBits) with hk | hk | hk
  · have hj : (k - minQuantum L).toNat + 2 ≤ 2 * L.bias := by have := h.quantum_ge; omega
    have hfields : (k - minQuantum L).toNat * 2 ^ L.fracBits + m < (2 * L.bias + 1) * 2 ^ L.fracBits := by
      rw [pow_succ] at hle
      nlinarith [Nat.two_pow_pos L.fracBits]
    have hx : x < overflowThreshold L :=
      calc x < 2 ^ (k + L.fracBits + 1) := h.lt_binade
        _ ≤ 2 ^ ((L.bias : ℤ) - L.fracBits + L.fracBits) := zpow_le_zpow_right₀ one_le_two (by omega)
        _ = 2 ^ L.fracBits * 2 ^ ((L.bias : ℤ) - L.fracBits) := by rw [zpow_add₀ two_ne_zero, zpow_natCast, mul_comm]
        _ ≤ overflowThreshold L := by
          rw [hthreshold, pow_succ]; push_cast
          exact mul_le_mul_of_nonneg_right (by linarith) hlast.le
    exact iff_of_false hfields.not_ge hx.not_ge
  · have hj : (k - minQuantum L).toNat + 1 = 2 * L.bias := by omega
    have hfields : (2 * L.bias + 1) * 2 ^ L.fracBits ≤ (k - minQuantum L).toNat * 2 ^ L.fracBits + m ↔
        2 ^ (L.fracBits + 1) ≤ m := by
      rw [← hj, pow_succ, add_assoc, Nat.add_mul, Nat.add_le_add_iff_left, Nat.mul_comm]
    rw [hfields, h.nearest.le_iff (by simp [pow_succ]), hthreshold, hk, le_div_iff₀ hlast]
  · have hj : 2 * L.bias ≤ (k - minQuantum L).toNat := by omega
    have hnormal : 2 ^ L.fracBits ≤ m := h.quanta_ge.resolve_left (by omega)
    have hfields : (2 * L.bias + 1) * 2 ^ L.fracBits ≤ (k - minQuantum L).toNat * 2 ^ L.fracBits + m := by
      nlinarith [Nat.two_pow_pos L.fracBits]
    have hx : overflowThreshold L ≤ x :=
      calc overflowThreshold L ≤ 2 ^ (L.fracBits + 1) * 2 ^ ((L.bias : ℤ) - L.fracBits) := by
            rw [hthreshold]; push_cast
            exact mul_le_mul_of_nonneg_right (by linarith) hlast.le
        _ = 2 ^ ((L.bias : ℤ) - L.fracBits + 1 + L.fracBits) := by
          rw [← zpow_natCast, ← zpow_add₀ two_ne_zero]; congr 1; push_cast; ring
        _ ≤ 2 ^ (k + L.fracBits) := zpow_le_zpow_right₀ one_le_two (by omega)
        _ ≤ x := h.binade_le.resolve_left (by omega)
    exact iff_of_true hfields hx

/-- From the threshold on the pattern is the infinity of the sign, and below it the rounded number. -/
theorem RoundsTo.ieeeValue_pack {x : ℚ} {k : ℤ} {m : Nat} (h : RoundsTo L x k m) (neg : Bool) :
    ieeeValue L (ieeePack L w neg (min (quantaFields L k m) (infFields L))) =
      if overflowThreshold L ≤ x then .inf neg else .finite neg (m * 2 ^ k) := by
  by_cases hle : infFields L ≤ quantaFields L k m
  · rw [min_eq_right hle, if_pos ((h.infFields_le_iff hL).mp hle)]
    exact ieeeValue_inf hL neg
  · have hlt := not_le.mp hle
    rw [min_eq_left hlt.le, ieeeValue_pack_of_lt hL neg hlt, h.fieldMagnitude_quantaFields,
      if_neg (mt (h.infFields_le_iff hL).mpr hle)]

/-- A finite pattern is even exactly when its number of quanta is. -/
theorem RoundsTo.pack_mod_two {x : ℚ} {k : ℤ} {m : Nat} (h : RoundsTo L x k m) (hx : x < overflowThreshold L)
    (neg : Bool) : (ieeePack L w neg (min (quantaFields L k m) (infFields L))).toNat % 2 = m % 2 := by
  have hlt : quantaFields L k m < infFields L := not_le.mp fun hle => hx.not_ge ((h.infFields_le_iff hL).mp hle)
  obtain ⟨f, hf⟩ := Nat.exists_eq_succ_of_ne_zero hL.frac_pos.ne'
  have hfits : quantaFields L k m < 2 ^ (L.expBits + L.fracBits) :=
    hlt.trans (hL.infFields_add_lt (Nat.two_pow_pos _))
  rw [min_eq_left hlt.le, toNat_pack hL neg hfits, quantaFields, hf]
  cases neg <;> simp [pow_succ, Nat.add_mod, Nat.mul_mod, ← add_assoc]

/-- 0 rounds to the zero of the sign asked for. -/
theorem ieeeValue_round_zero (zeroNeg : Bool) : ieeeValue L (ieeeRound L w zeroNeg 0) = .finite zeroNeg 0 :=
  ieeeValue_pack_zero hL zeroNeg

theorem overflowThreshold_pos : 0 < overflowThreshold L := by
  have hfull : (1 : ℚ) ≤ 2 ^ (L.fracBits + 1) := one_le_pow₀ one_le_two
  rw [overflowThreshold_eq hL]
  push_cast
  exact mul_pos (by linarith) (by positivity)

theorem roundsToNearestEven : RoundsToNearestEven L w := by
  intro zeroNeg q
  by_cases hq : q = 0
  case pos =>
    subst hq
    have hpos := overflowThreshold_pos hL
    rw [ieeeValue_round_zero hL, abs_zero]
    refine ⟨?_, iff_of_false (by simp) hpos.not_ge, fun _ => ⟨_, _, rfl⟩⟩
    intro s m hvalue
    obtain ⟨rfl, rfl⟩ := IeeeValue.finite.inj hvalue
    refine ⟨(if_pos rfl).symm, fun y t n _ => ?_⟩
    have hzero : signedRat zeroNeg 0 = 0 := by simp [signedRat]
    refine ⟨by simp [hzero], fun htie => .inl ?_⟩
    rw [hzero, sub_zero, sub_zero, abs_zero, eq_comm, abs_eq_zero] at htie
    rw [hzero, htie]
  case neg =>
    obtain ⟨k, m, h, hround⟩ := ieeeRound_of_ne_zero L w zeroNeg hq
    have hpack := h.ieeeValue_pack hL (decide (q < 0))
    rw [← hround] at hpack
    by_cases hover : overflowThreshold L ≤ |q|
    · rw [if_pos hover] at hpack
      rw [hpack]
      exact ⟨fun _ _ hvalue => (nomatch hvalue), iff_of_true rfl hover, fun hlt => absurd hover hlt.not_ge⟩
    · rw [if_neg hover] at hpack
      rw [hpack]
      refine ⟨?_, iff_of_false (by simp) hover, fun _ => ⟨_, _, rfl⟩⟩
      intro s mag hvalue
      obtain ⟨rfl, rfl⟩ := IeeeValue.finite.inj hvalue
      refine ⟨(if_neg hq).symm, fun y t n hy => ?_⟩
      rw [hround, h.pack_mod_two hL (not_le.mp hover)]
      exact h.le_abs_signed ((onGrid_of_finite hy).signedRat t)

end

/-- Settles O8: in either format no number of a finer quantum is nearer, and of the multiples of the quantum the nearest
is taken. -/
theorem roundingIsNearestEven : Obligations.RoundingIsNearestEven :=
  ⟨roundsToNearestEven binary32_interchange, roundsToNearestEven binary64_interchange⟩

end Sys2Proof.Machine
